-- ==== Sys2Proof/Word.lean ====
section
/-! DEFINITION. The plain value types of spec/00_scope.md rule R9 that are bits: bytes, ids, sequence
numbers, sensor values, raw buffers and 7-byte wire frames. Every quantity of this hardware is unsigned
(rule R11). -/

namespace Sys2Proof

/-- R9 `Byte`: an unsigned integer 0..255. -/
abbrev Byte := BitVec 8

/-- R9 `StationId`: a `Byte`; all 256 ids are legal (spec/20_memory.md R56). -/
abbrev StationId := Byte

/-- R9 `Seq`: a whole `Byte`; producers emit 0..254 only, but the raw value 255 can arrive (R128). -/
abbrev Seq := Byte

/-- R9 `Value`: a 10-bit sensor value, 0..1023. -/
abbrev Value := BitVec 10

/-- R9 `ValueIn`: an unsigned integer, the over-wide value operand of ENCODE. That it lies in 0..2^VW-1 is checked for each
VW in `WellFormed.lean`, so what an operation does is said once for every VW (R7). -/
abbrev ValueIn := Nat

/-- R9 `Buffer`: a finite sequence of bytes of any length, before its length is checked. -/
abbrev Buffer := List Byte

/-- R9 `WireFrame`: exactly 7 bytes, index 0 the first byte transmitted. -/
abbrev WireFrame := Vector Byte 7

/-- The 56-bit frame bus of spec/20_memory.md R45: byte `i` in bits `55-8i .. 48-8i`. -/
abbrev FrameBus := BitVec 56

end Sys2Proof
end

