-- ==== Sys2Proof/Config.lean ====
section
/-! DEFINITION. What the design fixes (spec/00_scope.md R6), what it leaves as parameters with a default
(R7, and SEQ255 of spec/41_sequence_validator.md R128), and the free values of the output ports that the
spec leaves unspecified (spec/30_encoding.md R72). -/

namespace Sys2Proof.Config

/-- FRAME_BYTES of R6: the length of a wire frame. -/
abbrev frameBytes : Nat := 7

/-- RING of R6: the modulus of the sequence ring. It is 255, not 256 (R130). -/
abbrev ring : Nat := 255

/-- SEQ_MAX of R6: the largest sequence number a conforming producer emits. -/
abbrev seqMax : Nat := 254

/-- HALF of R6: the largest forward distance treated as newer. -/
abbrev half : Nat := 127

/-- NSTATION of R6: the number of station ids, so of entries of the station table. -/
abbrev nStation : Nat := 256

/-- The widths that R7 leaves open, which everything at the pin level takes as an argument. -/
structure Widths where
  /-- VW (decision D7): the width of each value input of ENCODE. -/
  vw : Nat
  /-- LW (decision D9): the width of the buffer-length input. -/
  lw : Nat
  deriving DecidableEq, Repr

/-- The defaults of R7, both 16. DESIGN CHOICE of the spec, log 1. -/
abbrev widths : Widths := { vw := 16, lw := 16 }

/-- The treatments of the raw sequence byte 255 that spec/92_eei_decisions.md D12 names: the literal
algorithm of R128, and two of the alternatives D12 sets aside. -/
inductive Seq255 where
  /-- R128: 255 goes through the algorithm as it is, and an accepted 255 is stored as 255. -/
  | literal
  /-- Set aside by D12: 255 is reduced to 0 before it is compared and stored. -/
  | reduceToZero
  /-- Set aside by D12: 255 is answered `RejectStale` and never stored. -/
  | rejectAsStale
  deriving DecidableEq, Repr

/-- SEQ255 of R128: the default, the literal algorithm (decision D12, log 2). -/
def seq255 : Seq255 := .literal

/-- The output ports of R72 and R156 whose value the spec leaves unspecified in some cycle. -/
inductive OutPort where
  | rspValid | rspErr | frameValid | frame | pktValid | station | seq | val0 | val1 | val2 | val3
  | decValid | decision | dbgPresent | dbgLast
  deriving DecidableEq, Repr

/-- FREE VALUE (log 3). What an output port holds in a cycle where the spec leaves it unspecified (R72: "it may
hold any value and a model must not give it one"; R36, R156, R202). It has no body, so nothing can be
proved of it. Its arguments are the port, the cycle's index and the width. -/
opaque freePort : OutPort → Nat → (w : Nat) → BitVec w

end Sys2Proof.Config
end

