-- ==== Sys2Proof/Syntax.lean ====
section
/-! DEFINITION. The instructions: one constructor per row of spec/opcode_table.json. Four are the operations of
spec/30_encoding.md R71; the fifth, `wireframe`, is the table's row for the frame pattern, which R77 says is
not an operation (log 4). -/

namespace Sys2Proof

/-- The rows of spec/opcode_table.json, with the operands of each row's `source_fields`. A buffer operand is
the operation level's byte sequence of any length (R9, R94), which the ports `req_len` and `req_frame` present
at the pin level (`Machine/Pins.lean`). -/
inductive Instr where
  /-- ENCODE (R90): `req_station`, `req_seq`, `req_val0..3`, the values over-wide, for any VW (R7). -/
  | encode (sid : StationId) (seq : Seq) (v0 v1 v2 v3 : ValueIn)
  /-- DECODE (R94): a buffer of any length. -/
  | decode (buf : Buffer)
  /-- CLASSIFY (R120): `req_station`, `req_seq`, the raw byte. -/
  | classify (s : StationId) (n : Seq)
  /-- RECEIVE (R150): a buffer of any length. -/
  | receive (buf : Buffer)
  /-- WIREFRAME (R60, R61): the ten fields of the pattern `s n a b c d e f g h`, the low and high parts of each
  value joined. A frame that stands on the bus while no operation is requested. -/
  | wireframe (sid : StationId) (seq : Seq) (v0 v1 v2 v3 : Value)
  deriving DecidableEq, Repr

end Sys2Proof
end

