-- ==== Sys2Proof/WellFormed.lean ====
section
/-! DEFINITION. The checks on an instruction and on the open widths VW and LW of spec/00_scope.md R7, which are an argument.
The operand types already rule out every over-wide id, sequence number and decoded value (spec/92_eei_decisions.md D8). -/

namespace Sys2Proof

/-- R7: VW is at least 10 and LW at least 3. -/
def Config.widthsOk (w : Config.Widths) : Bool :=
  decide (10 ≤ w.vw) && decide (3 ≤ w.lw)

/-- R9 `ValueIn`: 0..2^VW-1. -/
def valueFits (v : ValueIn) (w : Config.Widths := Config.widths) : Bool :=
  decide (v < 2 ^ w.vw)

/-- A buffer whose true length fits `req_len` (LW bits, D9), so that the transport's duty of R18, to present each
buffer with its true length, can be met without saturation. -/
def bufferFits (buf : Buffer) (w : Config.Widths := Config.widths) : Bool :=
  decide (buf.length < 2 ^ w.lw)

/-- A well-formed instruction of a block of the given widths: the widths are legal, and ports of those widths can carry the
values and the buffer's length. The meanings hold for every operand; only the presentation at the pins needs this. -/
def Instr.wf (i : Instr) (w : Config.Widths := Config.widths) : Bool :=
  Config.widthsOk w &&
    match i with
    | .encode _ _ v0 v1 v2 v3 => valueFits v0 w && valueFits v1 w && valueFits v2 w && valueFits v3 w
    | .decode buf => bufferFits buf w
    | .classify _ _ => true
    | .receive buf => bufferFits buf w
    | .wireframe _ _ _ _ _ _ => true

end Sys2Proof
end

