-- ==== Sys2Proof/Decode.lean ====
section
/-! DEFINITION. From the request ports to an instruction and back (spec/30_encoding.md R70, R71, R77), the frame
bus (R45, R61), and the words of spec/opcode_table.json. -/

namespace Sys2Proof

/-- The request of one cycle at the operation level (R8): what the request ports of R70 present. `val0` to `val3` are the
values that stand on the ports of VW bits, and `buf` is the buffer that the pair (`req_len`, `req_frame`) stands for (D9);
`Machine/Pins.lean` gives the ports, for every VW and LW (R7). -/
structure Request where
  /-- `req_valid`: a request is presented in this cycle. -/
  valid : Bool
  /-- `req_op`. -/
  op : BitVec 2
  /-- `req_station`. -/
  station : StationId
  /-- `req_seq`. -/
  seq : Seq
  /-- `req_val0`. -/
  val0 : ValueIn
  /-- `req_val1`. -/
  val1 : ValueIn
  /-- `req_val2`. -/
  val2 : ValueIn
  /-- `req_val3`. -/
  val3 : ValueIn
  /-- The buffer presented. -/
  buf : Buffer
  deriving DecidableEq, Repr

/-- Why a cycle's request ports hold no instruction. -/
inductive NotDecoded where
  /-- `req_valid = 0` and no frame on the bus: the block's no-operation (R71, R76 NOP). -/
  | noOperation
  deriving DecidableEq, Repr

/-- R45: the seven bytes on the frame bus, byte 0 in bits 55..48. -/
def busOfBytes (b0 b1 b2 b3 b4 b5 b6 : Byte) : FrameBus :=
  b0 ++ b1 ++ b2 ++ b3 ++ b4 ++ b5 ++ b6

/-- R45, the other way: byte `i` is `frame[55-8i : 48-8i]`. -/
def bytesOfBus (f : FrameBus) : Buffer :=
  [f.extractLsb' 48 8, f.extractLsb' 40 8, f.extractLsb' 32 8, f.extractLsb' 24 8,
    f.extractLsb' 16 8, f.extractLsb' 8 8, f.extractLsb' 0 8]

/-- R61: the fields of the pattern `ssssssss nnnnnnnn aaaaaaaa bbbbbbbb cccccccc dddddddd eeffgghh`. -/
def wireframeOfBus (f : FrameBus) : Instr :=
  .wireframe (f.extractLsb' 48 8) (f.extractLsb' 40 8)
    (f.extractLsb' 6 2 ++ f.extractLsb' 32 8) (f.extractLsb' 4 2 ++ f.extractLsb' 24 8)
    (f.extractLsb' 2 2 ++ f.extractLsb' 16 8) (f.extractLsb' 0 2 ++ f.extractLsb' 8 8)

/-- R61: the bus that carries the pattern's fields. -/
def busOfFields (sid : StationId) (seq : Seq) (v0 v1 v2 v3 : Value) : FrameBus :=
  sid ++ seq ++ v0.extractLsb' 0 8 ++ v1.extractLsb' 0 8 ++ v2.extractLsb' 0 8 ++ v3.extractLsb' 0 8
    ++ v0.extractLsb' 8 2 ++ v1.extractLsb' 8 2 ++ v2.extractLsb' 8 2 ++ v3.extractLsb' 8 2

/-- A frame that stands on the bus with no operation requested (log 4); a buffer of another length is no frame (R67). -/
def decodeIdle (buf : Buffer) : Except NotDecoded Instr :=
  match buf with
  | [b0, b1, b2, b3, b4, b5, b6] => .ok (wireframeOfBus (busOfBytes b0 b1 b2 b3 b4 b5 b6))
  | _ => .error .noOperation

/-- R71: the four codes of `req_op`, none reserved; ports an operation does not use are not read (R70). -/
def decode (r : Request) : Except NotDecoded Instr :=
  if r.valid then
    if r.op = 0b00#2 then .ok (.encode r.station r.seq r.val0 r.val1 r.val2 r.val3)
    else if r.op = 0b01#2 then .ok (.decode r.buf)
    else if r.op = 0b10#2 then .ok (.classify r.station r.seq)
    else .ok (.receive r.buf)
  else decodeIdle r.buf

/-- Request ports with nothing presented, every port 0 and no bytes. -/
def Request.none : Request :=
  { valid := false, op := 0, station := 0, seq := 0, val0 := 0, val1 := 0, val2 := 0, val3 := 0, buf := [] }

/-- The request ports of an instruction (R70, R71), the ports it does not use at 0 (they are ignored, R70). -/
def encode : Instr → Request
  | .encode sid seq v0 v1 v2 v3 =>
    { Request.none with valid := true, op := 0b00#2, station := sid, seq := seq,
                        val0 := v0, val1 := v1, val2 := v2, val3 := v3 }
  | .decode buf => { Request.none with valid := true, op := 0b01#2, buf := buf }
  | .classify s n => { Request.none with valid := true, op := 0b10#2, station := s, seq := n }
  | .receive buf => { Request.none with valid := true, op := 0b11#2, buf := buf }
  | .wireframe sid seq v0 v1 v2 v3 => { Request.none with buf := bytesOfBus (busOfFields sid seq v0 v1 v2 v3) }

/-- D9: the value of `req_len`, LW bits wide, for a buffer. A length that LW bits cannot hold is shown as the largest even
number, which is not 7 (D9: "saturated to any value other than 7"; log 5). -/
def lenPort (buf : Buffer) (w : Config.Widths := Config.widths) : BitVec w.lw :=
  if buf.length < 2 ^ w.lw then BitVec.ofNat w.lw buf.length else BitVec.ofNat w.lw (2 ^ w.lw - 2)

/-- R70: `req_frame`, the first 7 bytes of the buffer, byte 0 in bits 55..48; bytes a short buffer does not have
are 0, which the block ignores (R70; log 5). -/
def framePort (buf : Buffer) : FrameBus :=
  busOfBytes (buf.getD 0 0) (buf.getD 1 0) (buf.getD 2 0) (buf.getD 3 0) (buf.getD 4 0) (buf.getD 5 0)
    (buf.getD 6 0)

/-- A buffer of a given length that the frame bus presents: its first 7 bytes are those of the bus, and bytes past them,
which no port carries and the block never reads, are 0 (log 5). -/
def bufferOfPorts (len : Nat) (frame : FrameBus) : Buffer :=
  (bytesOfBus frame ++ List.replicate (len - Config.frameBytes) 0).take len

/-- How many bits the request ports have together, `req_op` filled up to a byte (log 6). -/
abbrev Config.Widths.portBits (w : Config.Widths) : Nat :=
  56 + w.lw + w.vw + w.vw + w.vw + w.vw + 8 + 8 + 6 + 2

/-- The request ports as one word (log 6): `req_op` in bits 1..0 as spec/opcode_table.json numbers them, and from bit 8 on
`req_station`, `req_seq`, `req_val0..3` (VW bits each), `req_len` (LW bits) and `req_frame`. -/
def portWord (r : Request) (w : Config.Widths := Config.widths) : BitVec w.portBits :=
  framePort r.buf ++ lenPort r.buf w ++ BitVec.ofNat w.vw r.val3 ++ BitVec.ofNat w.vw r.val2 ++ BitVec.ofNat w.vw r.val1
    ++ BitVec.ofNat w.vw r.val0 ++ r.seq ++ r.station ++ 0#6 ++ r.op

/-- The request that the port word presents, with the ports' places computed from the widths. -/
def requestOfWord {w : Config.Widths} (x : BitVec w.portBits) : Request :=
  { valid := true, op := x.extractLsb' 0 2, station := x.extractLsb' 8 8, seq := x.extractLsb' 16 8,
    val0 := (x.extractLsb' 24 w.vw).toNat, val1 := (x.extractLsb' (24 + w.vw) w.vw).toNat,
    val2 := (x.extractLsb' (24 + 2 * w.vw) w.vw).toNat, val3 := (x.extractLsb' (24 + 3 * w.vw) w.vw).toNat,
    buf := bufferOfPorts (x.extractLsb' (24 + 4 * w.vw) w.lw).toNat (x.extractLsb' (24 + 4 * w.vw + w.lw) 56) }

/-- The ports that a word of spec/opcode_table.json stands for: 56 bits are the row WIREFRAME's pattern (R61), with no
operation requested; any other number of bits is the low end of a request's port word, the rest 0 (log 6). -/
def requestOfTableWord (nbits x : Nat) (w : Config.Widths := Config.widths) : Request :=
  if nbits = 56 then { Request.none with buf := bytesOfBus (BitVec.ofNat 56 x) }
  else requestOfWord (BitVec.ofNat w.portBits (x % 2 ^ nbits))

/-- The instruction the decoder reads from a word of spec/opcode_table.json, at the default widths of R7. -/
def decodeTableWord (nbits w : Nat) : Option Instr :=
  (decode (requestOfTableWord nbits w)).toOption

end Sys2Proof
end

