-- ==== Sys2Proof/Machine/State.lean ====
section
/-! DEFINITION. The value types of spec/00_scope.md R9 that operations return, the state of the block
(spec/10_state.md R20, R36), and the model's own fields that stand for its ports. -/

namespace Sys2Proof.Machine

/-- R9 `Packet`: exactly 4 values, indexed 0..3. -/
structure Packet where
  stationId : StationId
  sequenceNumber : Seq
  values : Vector Value 4
  deriving DecidableEq, Repr

/-- R9 `Decision`: three constructors of one type, none of them a fault (R172). -/
inductive Decision where
  | accept
  | rejectDuplicate
  | rejectStale
  deriving DecidableEq, Repr

/-- R9 `Error`: the one error, which records nothing (R171). -/
inductive Error where
  | malformedFrame
  deriving DecidableEq, Repr

/-- The response of one request, a sum type (R71, R97, R152): a result or the error, never both. -/
inductive Response where
  /-- ENCODE's frame. -/
  | frame (f : WireFrame)
  /-- DECODE's packet. -/
  | packet (p : Packet)
  /-- CLASSIFY's decision. -/
  | decision (d : Decision)
  /-- RECEIVE's pair. -/
  | packetDecision (p : Packet) (d : Decision)
  /-- The error, returned in place of a result (R170). -/
  | error (e : Error)
  deriving DecidableEq, Repr

/-- What the response ports show in one cycle. -/
inductive Rsp where
  /-- `rsp_valid = 0`: no request was presented. -/
  | idle
  /-- `rsp_valid = 1` with a response. -/
  | response (r : Response)
  /-- Reset and a request in the same cycle: every response output is unspecified (R202). -/
  | unspecified
  deriving DecidableEq, Repr

/-- What the environment drives in one cycle (R14, R18, R70): reset, the request ports, the debug station. -/
structure Cycle where
  /-- `rst` (R200). -/
  rst : Bool
  /-- The request ports. -/
  req : Request
  /-- `dbg_station` (R156). -/
  dbgStation : StationId
  deriving DecidableEq, Repr

/-- The station table as data: `(station, last)` for each entry with `present = 1`, stations strictly rising. A
station not listed has `present = 0` and no value of `last` (R21, R36). -/
abbrev Memory := List Host.Cell

/-- The state. `sst` is the whole of the block's own state (R20). The other four fields are the MODEL's own: the
ports' two sides and the index of free values (log 7); no operation reads `rsp`, `dbg` or `freeIdx` (R31, R35). -/
structure State where
  /-- The station table `SST` (R20, R21). -/
  sst : Memory
  /-- The cycles the environment is yet to drive, the next first (R14, R50). -/
  inputs : List Cycle
  /-- What the response ports showed in the last cycle (R72). -/
  rsp : Rsp
  /-- What the debug port showed in the last cycle: the station and its entry; `none` when it was not driven (R156). -/
  dbg : Option (StationId × Option Seq)
  /-- The index of the last cycle's free values (log 3); not a counter of the block's (R182). -/
  freeIdx : Nat
  deriving DecidableEq, Repr

/-- Nothing stops this block (R173: "A model has no stuck state and no faulted state"), so the type has no
constructor; nobody raises a fault. `MalformedFrame` is a response (R17). Safe. -/
inductive Fault where
  deriving DecidableEq, Repr

/-- Why a step has no meaning. -/
inductive Refusal where
  /-- An instruction not modelled yet: raised by an arm of `exec` alone, and by none now. Safe. -/
  | notModelled (mnemonic : String)
  deriving DecidableEq, Repr

/-- R36, R200: every `present` is 0; `last` has no value. No port has been driven yet (log 7). -/
def State.reset : State :=
  { sst := [], inputs := [], rsp := .idle, dbg := none, freeIdx := 0 }

end Sys2Proof.Machine
end

