-- ==== Sys2Proof/Machine/Operands.lean ====
section
/-! DEFINITION. The operand forms: the four lanes of the codec (spec/30_encoding.md R62, R64, R65;
spec/40_codec.md R99) and the ring's forward distance (spec/41_sequence_validator.md R122). -/

namespace Sys2Proof.Machine

/-- R62: the shift of lane `i`'s slot in byte 6: 6, 4, 2, 0. -/
def slotShift (i : Nat) : Nat := 6 - 2 * i

/-- R65: `v & 0xFF`, lane `i`'s byte `2+i`. -/
def lowByte (v : ValueIn) : Byte :=
  BitVec.ofNat 8 (v &&& 0xFF)

/-- R65: `(v >> 8) & 0x3`, lane `i`'s two high bits. -/
def highPair (v : ValueIn) : Byte :=
  BitVec.ofNat 8 ((v >>> 8) &&& 0x3)

/-- R65: byte 6, the OR of the four high pairs at their slots. -/
def packHigh (v0 v1 v2 v3 : ValueIn) : Byte :=
  (highPair v0 <<< slotShift 0) ||| (highPair v1 <<< slotShift 1) ||| (highPair v2 <<< slotShift 2)
    ||| (highPair v3 <<< slotShift 3)

/-- R64: lane `i`'s value, `(((b[6] >> (6 - 2i)) & 0x3) << 8) | b[2+i]`. -/
def laneValue (low hi : Byte) (i : Nat) : Value :=
  (((hi >>> slotShift i) &&& 0x3#8).setWidth 10 <<< 8) ||| low.setWidth 10

/-- R65: the whole frame, for values of any width (R7). -/
def encodeFrame (sid : StationId) (seq : Seq) (v0 v1 v2 v3 : ValueIn) : WireFrame :=
  #v[sid, seq, lowByte v0, lowByte v1, lowByte v2, lowByte v3, packHigh v0 v1 v2 v3]

/-- R64: the packet of a frame. -/
def decodeFrame (b : WireFrame) : Packet :=
  { stationId := b[0], sequenceNumber := b[1],
    values := #v[laneValue b[2] b[6] 0, laneValue b[3] b[6] 1, laneValue b[4] b[6] 2, laneValue b[5] b[6] 3] }

/-- R94: the length check, then the unpacking; a packet or the error, never both (R97). -/
def decodeBuffer (buf : Buffer) : Except Error Packet :=
  if h : buf.length = Config.frameBytes then .ok (decodeFrame ⟨buf.toArray, h⟩)
  else .error .malformedFrame

/-- R122: `(n - last) mod 255`, over the integers, the remainder never negative (R11). -/
def forwardDistance (n last : Seq) : Nat :=
  (((n.toNat : Int) - (last.toNat : Int)) % (Config.ring : Int)).toNat

end Sys2Proof.Machine
end

