-- ==== Sys2Proof/Machine/Ops.lean ====
section
/-! DEFINITION. The shared operations: the station table as a sparse map, its two primitives
(spec/20_memory.md R57), the response, the one error (spec/60_exceptions.md R170, R177) and the classification
(spec/41_sequence_validator.md R120). There is no return from the error to model (R178). -/

namespace Sys2Proof.Machine

/-- The value listed at a key; `none` where nothing is listed. -/
def Memory.read : Memory → Nat → Option Byte
  | [], _ => none
  | (k, v) :: m, a => if k = a then some v else Memory.read m a

/-- Puts a value at a key, keeping the keys strictly rising. -/
def Memory.write : Memory → Nat → Byte → Memory
  | [], a, b => [(a, b)]
  | (k, v) :: m, a, b =>
    if a < k then (a, b) :: (k, v) :: m
    else if a = k then (a, b) :: m
    else (k, v) :: Memory.write m a b

/-- Every key listed is above `lo`, the keys rise strictly, and all are below 256. -/
def Memory.risesFrom : Nat → Memory → Bool
  | _, [] => true
  | lo, (k, _) :: m => decide (lo ≤ k) && decide (k < Config.nStation) && Memory.risesFrom (k + 1) m

/-- The canonical form: stations strictly rising, each below 256. An unlisted station reads as no value, so no
entry can equal it. -/
def Memory.wf (m : Memory) : Bool := Memory.risesFrom 0 m

/-- R57 `SstRead`: `none` for `present = 0`, `some last` for `present = 1` (R21). -/
def sstRead (m : Memory) (s : StationId) : Option Seq := Memory.read m s.toNat

/-- R57 `SstWrite`: `present <- 1` and `last <- n` together. -/
def sstWrite (m : Memory) (s : StationId) (n : Seq) : Memory := Memory.write m s.toNat n

/-- The entry of a station in a state. -/
def State.entry (s : State) (x : StationId) : Option Seq := sstRead s.sst x

/-- Gives the request's response. -/
def State.respond (s : State) (r : Response) : State := { s with rsp := .response r }

/-- `raise MalformedFrame` (R12, R170, R177): the error in place of a result; nothing is saved, no entry is read or
written, and there is no handler. -/
def State.raiseMalformedFrame (s : State) : State := s.respond (.error .malformedFrame)

/-- `req_valid = 0` (R71, R76 NOP): no response, no state change. -/
def State.idle (s : State) : State := { s with rsp := .idle }

/-- R120 applied to the byte as it is: the new table and the decision. -/
def ringClassify (m : Memory) (s : StationId) (n : Seq) : Memory × Decision :=
  match sstRead m s with
  | none => (sstWrite m s n, .accept)
  | some last =>
    if forwardDistance n last = 0 then (m, .rejectDuplicate)
    else if forwardDistance n last ≤ Config.half then (sstWrite m s n, .accept)
    else (m, .rejectStale)

/-- R128: the classification under a treatment of the raw byte 255 (SEQ255). -/
def classifyAs (t : Config.Seq255) (m : Memory) (s : StationId) (n : Seq) : Memory × Decision :=
  match t with
  | .literal => ringClassify m s n
  | .reduceToZero => ringClassify m s (if n = 255#8 then 0#8 else n)
  | .rejectAsStale => if n = 255#8 then (m, .rejectStale) else ringClassify m s n

/-- The classification this hardware makes. -/
def classify (m : Memory) (s : StationId) (n : Seq) : Memory × Decision := classifyAs Config.seq255 m s n

end Sys2Proof.Machine
end

