-- ==== Sys2Proof/Machine/Cycles.lean ====
section
/-! DEFINITION. What a cycle does around an operation: sampling the ports, reset and the empty input
(spec/70_reset_and_hazards.md R200, R202; spec/42_receive_path.md R156). -/

namespace Sys2Proof.Machine

/-- Takes the next cycle's inputs: the debug port shows the entry of `dbg_station` as it stands before the cycle's
request takes effect (R156), and the cycle has free values of its own (log 3). -/
def State.beginCycle (s : State) (c : Cycle) (rest : List Cycle) : State :=
  { s with inputs := rest, dbg := some (c.dbgStation, s.entry c.dbgStation), freeIdx := s.freeIdx + 1 }

/-- A cycle with `rst = 1` (R200): every `present` becomes 0. A request in the same cycle has no effect and its
response is unspecified (R202). -/
def State.resetCycle (s : State) (reqValid : Bool) : State :=
  { s with sst := [], rsp := if reqValid then .unspecified else .idle }

/-- Nothing is driven (R19: the run is over): no response, no state change, no debug output (log 8). -/
def State.undriven (s : State) : State :=
  { s with rsp := .idle, dbg := none, freeIdx := s.freeIdx + 1 }

/-- Puts a cycle in front of the inputs. -/
def State.present (s : State) (c : Cycle) : State := { s with inputs := c :: s.inputs }

/-- A cycle with no reset that drives given request ports and shows station 0 on the debug port. -/
def Cycle.ofRequest (r : Request) : Cycle := { rst := false, req := r, dbgStation := 0 }

end Sys2Proof.Machine
end

