-- ==== Sys2Proof/Machine/Flags.lean ====
section
/-! DEFINITION. The block has no flag (spec/10_state.md R31). What stands in their place are the indicator outputs of
spec/30_encoding.md R72 to R74, valid in the cycle of a response only: `rsp_err`, the three valid bits and the code of a
decision. -/

namespace Sys2Proof.Machine

/-- R73 (D5): `rsp_decision`; the code 0b11 is never produced. -/
def decisionCode : Decision → BitVec 2
  | .accept => 0b00#2
  | .rejectDuplicate => 0b01#2
  | .rejectStale => 0b10#2

/-- R74 (D6): `rsp_err`. -/
def errBit : Response → Bool
  | .error .malformedFrame => true
  | _ => false

/-- R72: `rsp_frame_valid`. -/
def frameValidBit : Response → Bool
  | .frame _ => true
  | _ => false

/-- R72: `rsp_pkt_valid`. -/
def pktValidBit : Response → Bool
  | .packet _ => true
  | .packetDecision _ _ => true
  | _ => false

/-- R72: `rsp_dec_valid`. -/
def decValidBit : Response → Bool
  | .decision _ => true
  | .packetDecision _ _ => true
  | _ => false

end Sys2Proof.Machine
end

