-- ==== Sys2Proof/Machine/Codec.lean ====
section
/-! DEFINITION. The codec operations ENCODE and DECODE (spec/40_codec.md R90, R94). Both read no state and write no
entry (R92, R98). -/

namespace Sys2Proof.Machine

/-- ENCODE (R90): it never fails, and bits 10 and above of each value reach no output bit (R91). -/
def execEncode (sid : StationId) (seq : Seq) (v0 v1 v2 v3 : ValueIn) (s : State) :
    Host.Outcome State Fault Refusal :=
  .next (s.respond (.frame (encodeFrame sid seq v0 v1 v2 v3)))

/-- DECODE (R94): `MalformedFrame` when the length is not 7, and in no other case. -/
def execDecode (buf : Buffer) (s : State) : Host.Outcome State Fault Refusal :=
  match decodeBuffer buf with
  | .error .malformedFrame => .next s.raiseMalformedFrame
  | .ok p => .next (s.respond (.packet p))

end Sys2Proof.Machine
end

