-- ==== Sys2Proof/Machine/Receive.lean ====
section
/-! DEFINITION. The composed receive path RECEIVE (spec/42_receive_path.md R150): DECODE then CLASSIFY in one step. -/

namespace Sys2Proof.Machine

/-- RECEIVE (R150): a decode failure stops the path (R151); otherwise the pair of the packet and the decision, for
every decision (R152). -/
def execReceive (buf : Buffer) (s : State) : Host.Outcome State Fault Refusal :=
  match decodeBuffer buf with
  | .error .malformedFrame => .next s.raiseMalformedFrame
  | .ok p =>
    let r := classify s.sst p.stationId p.sequenceNumber
    .next (State.respond { s with sst := r.1 } (.packetDecision p r.2))

end Sys2Proof.Machine
end

