-- ==== Sys2Proof/Machine/Validator.lean ====
section
/-! DEFINITION. The validator operation CLASSIFY (spec/41_sequence_validator.md R120). -/

namespace Sys2Proof.Machine

/-- CLASSIFY (R120): one indivisible read, comparison and conditional write of one entry (spec/20_memory.md R48). -/
def execClassify (st : StationId) (n : Seq) (s : State) : Host.Outcome State Fault Refusal :=
  let r := classify s.sst st n
  .next (State.respond { s with sst := r.1 } (.decision r.2))

end Sys2Proof.Machine
end

