-- ==== Sys2Proof/Machine/Wire.lean ====
section
/-! DEFINITION. The row WIREFRAME, which is a data format and not an operation (spec/30_encoding.md R77). -/

namespace Sys2Proof.Machine

/-- WIREFRAME: a frame stands on the bus and no operation is requested, so the cycle is the block's no-operation, "no
response, no state change" (R71, R76), and the frame, an input no operation uses, is ignored (R70). DESIGN CHOICE,
log 4. -/
def execWireframe (_sid : StationId) (_seq : Seq) (_v0 _v1 _v2 _v3 : Value) (s : State) :
    Host.Outcome State Fault Refusal :=
  .next s.idle

end Sys2Proof.Machine
end

