-- ==== Sys2Proof/Machine/Dispatch.lean ====
section
/-! DEFINITION. One arm per constructor of Instr. -/

namespace Sys2Proof.Machine

def exec (i : Instr) (s : State) : Host.Outcome State Fault Refusal :=
  match i with
  | .encode sid seq v0 v1 v2 v3 => Sys2Proof.Machine.execEncode sid seq v0 v1 v2 v3 s
  | .decode buf => Sys2Proof.Machine.execDecode buf s
  | .classify st n => Sys2Proof.Machine.execClassify st n s
  | .receive buf => Sys2Proof.Machine.execReceive buf s
  | .wireframe sid seq v0 v1 v2 v3 => Sys2Proof.Machine.execWireframe sid seq v0 v1 v2 v3 s

end Sys2Proof.Machine
end

