-- ==== Sys2Proof/Machine/Step.lean ====
section
/-! DEFINITION. One step is one cycle of the block: it takes the next cycle's inputs, and a request is one step
(spec/00_scope.md R14, spec/20_memory.md R50). -/

namespace Sys2Proof.Machine

/-- One cycle. Reset has priority over a request (R176, R202). -/
def step (s : State) : Host.Outcome State Fault Refusal :=
  match s.inputs with
  | [] => .next s.undriven
  | c :: rest =>
    if c.rst then .next ((s.beginCycle c rest).resetCycle c.req.valid)
    else
      match decode c.req with
      | .ok i => exec i (s.beginCycle c rest)
      | .error .noOperation => .next (s.beginCycle c rest).idle

/-- The instruction of a word of spec/opcode_table.json, presented as the very next cycle (log 6): there is no program
counter and no program (R30), so the environment presents the request. -/
def State.withFetchWord (s : State) (nbits w : Nat) : State :=
  s.present (Cycle.ofRequest (requestOfTableWord nbits w))

end Sys2Proof.Machine
end

