-- ==== Sys2Proof/Machine/Pins.lean ====
section
/-! DEFINITION. The pin level of spec/30_encoding.md R70 and R72: the ports, the outputs that a state of the model
shows on them, and the block as a pin-level design, written from the bus slices (R45, R61) and the 8-bit form of the
ring arithmetic (spec/41_sequence_validator.md R129) and from nothing of the operation level, for every VW and LW (R7). An unspecified output is
a free value (log 3). -/

namespace Sys2Proof.Machine

/-- The input ports of R70, for the widths VW and LW of R7. -/
structure InPins (w : Config.Widths := Config.widths) where
  rst : Bool
  reqValid : Bool
  reqOp : BitVec 2
  reqStation : BitVec 8
  reqSeq : BitVec 8
  reqVal0 : BitVec w.vw
  reqVal1 : BitVec w.vw
  reqVal2 : BitVec w.vw
  reqVal3 : BitVec w.vw
  reqLen : BitVec w.lw
  reqFrame : BitVec 56
  dbgStation : BitVec 8
  deriving DecidableEq, Repr

/-- The output ports of R70 (`req_ready`), R72 and R156. -/
structure OutPins where
  reqReady : Bool
  rspValid : Bool
  rspErr : Bool
  rspFrameValid : Bool
  rspFrame : BitVec 56
  rspPktValid : Bool
  rspStation : BitVec 8
  rspSeq : BitVec 8
  rspVal0 : BitVec 10
  rspVal1 : BitVec 10
  rspVal2 : BitVec 10
  rspVal3 : BitVec 10
  rspDecValid : Bool
  rspDecision : BitVec 2
  dbgPresent : Bool
  dbgLast : BitVec 8
  deriving DecidableEq, Repr

/-- The ports a cycle drives: the buffer as its length and its first 7 bytes (D9, R18), and of each value the bits that
VW bits hold (D7: "the upper bits are lost before the block"). -/
def Cycle.pins (c : Cycle) (w : Config.Widths := Config.widths) : InPins w :=
  { rst := c.rst, reqValid := c.req.valid, reqOp := c.req.op, reqStation := c.req.station, reqSeq := c.req.seq,
    reqVal0 := BitVec.ofNat w.vw c.req.val0, reqVal1 := BitVec.ofNat w.vw c.req.val1,
    reqVal2 := BitVec.ofNat w.vw c.req.val2, reqVal3 := BitVec.ofNat w.vw c.req.val3,
    reqLen := lenPort c.req.buf w, reqFrame := framePort c.req.buf, dbgStation := c.dbgStation }

/-- A free value on a one-bit port. -/
def freeBit (p : Config.OutPort) (k : Nat) : Bool := (Config.freePort p k 1).getLsbD 0

/-- R45: a frame on the 56-bit bus. -/
def busOfFrame (f : WireFrame) : FrameBus := busOfBytes f[0] f[1] f[2] f[3] f[4] f[5] f[6]

/-- The frame of a response, if it has one. -/
def Rsp.frame? : Rsp → Option WireFrame
  | .response (.frame f) => some f
  | _ => none

/-- The packet of a response, if it has one. -/
def Rsp.packet? : Rsp → Option Packet
  | .response (.packet p) => some p
  | .response (.packetDecision p _) => some p
  | _ => none

/-- The decision of a response, if it has one. -/
def Rsp.decision? : Rsp → Option Decision
  | .response (.decision d) => some d
  | .response (.packetDecision _ d) => some d
  | _ => none

/-- An indicator output (R72): that of the response, else unspecified. -/
def Rsp.indicator (r : Rsp) (bit : Response → Bool) (p : Config.OutPort) (k : Nat) : Bool :=
  match r with
  | .response x => bit x
  | _ => freeBit p k

/-- A data output (R72): a part of the result that is valid, else unspecified. -/
def dataOut {α : Type} {w : Nat} (x : Option α) (part : α → BitVec w) (p : Config.OutPort) (k : Nat) : BitVec w :=
  match x with
  | some a => part a
  | none => Config.freePort p k w

/-- What the output ports showed in the state's last cycle (R72, R156). `req_ready` is constantly 1 (R52). -/
def State.outPins (s : State) : OutPins :=
  { reqReady := true
    rspValid := match s.rsp with
      | .idle => false
      | .response _ => true
      | .unspecified => freeBit .rspValid s.freeIdx
    rspErr := s.rsp.indicator errBit .rspErr s.freeIdx
    rspFrameValid := s.rsp.indicator frameValidBit .frameValid s.freeIdx
    rspFrame := dataOut s.rsp.frame? busOfFrame .frame s.freeIdx
    rspPktValid := s.rsp.indicator pktValidBit .pktValid s.freeIdx
    rspStation := dataOut s.rsp.packet? (·.stationId) .station s.freeIdx
    rspSeq := dataOut s.rsp.packet? (·.sequenceNumber) .seq s.freeIdx
    rspVal0 := dataOut s.rsp.packet? (·.values[0]) .val0 s.freeIdx
    rspVal1 := dataOut s.rsp.packet? (·.values[1]) .val1 s.freeIdx
    rspVal2 := dataOut s.rsp.packet? (·.values[2]) .val2 s.freeIdx
    rspVal3 := dataOut s.rsp.packet? (·.values[3]) .val3 s.freeIdx
    rspDecValid := s.rsp.indicator decValidBit .decValid s.freeIdx
    rspDecision := dataOut s.rsp.decision? decisionCode .decision s.freeIdx
    dbgPresent := match s.dbg with
      | some (_, e) => e.isSome
      | none => freeBit .dbgPresent s.freeIdx
    dbgLast := dataOut (s.dbg.bind (·.2)) id .dbgLast s.freeIdx }

/-! The pin-level design. -/

/-- R129, the 8-bit form: `t = (n - last) mod 256`, less the borrow, and 255 read as 0. -/
def pinDistance (n last : BitVec 8) : BitVec 8 :=
  let fd := (n - last) - (if n.ult last then 1#8 else 0#8)
  if fd = 255#8 then 0#8 else fd

/-- R120 and R73 as a code: 0 Accept, 1 RejectDuplicate, 2 RejectStale. -/
def pinDecision (entry : Option (BitVec 8)) (n : BitVec 8) : BitVec 2 :=
  match entry with
  | none => 0b00#2
  | some last =>
    if pinDistance n last = 0#8 then 0b01#2
    else if (pinDistance n last).ule 127#8 then 0b00#2
    else 0b10#2

/-- A request is presented and is not overridden by reset (R202). -/
def InPins.live {w : Config.Widths} (p : InPins w) : Bool := p.reqValid && !p.rst

/-- `req_len = 7`: the only check of the decoder (R94). -/
def InPins.lenOk {w : Config.Widths} (p : InPins w) : Bool := p.reqLen == 7

/-- DECODE and RECEIVE, the operations that take a buffer: `req_op[0] = 1` (R71). -/
def InPins.takesBuffer {w : Config.Widths} (p : InPins w) : Bool := p.reqOp == 0b01#2 || p.reqOp == 0b11#2

/-- The outputs `rsp_pkt_valid` would show for a live request. -/
def InPins.givesPacket {w : Config.Widths} (p : InPins w) : Bool := p.takesBuffer && p.lenOk

/-- The outputs `rsp_dec_valid` would show for a live request. -/
def InPins.givesDecision {w : Config.Widths} (p : InPins w) : Bool := p.reqOp == 0b10#2 || (p.reqOp == 0b11#2 && p.lenOk)

/-- The station a decision is about: the port of CLASSIFY, byte 0 of the bus of RECEIVE. -/
def InPins.station {w : Config.Widths} (p : InPins w) : BitVec 8 :=
  if p.reqOp = 0b10#2 then p.reqStation else p.reqFrame.extractLsb' 48 8

/-- The sequence number a decision is about: the port of CLASSIFY, byte 1 of the bus of RECEIVE. -/
def InPins.seq {w : Config.Widths} (p : InPins w) : BitVec 8 :=
  if p.reqOp = 0b10#2 then p.reqSeq else p.reqFrame.extractLsb' 40 8

/-- R61 as wiring: the frame bus that ENCODE drives. -/
def InPins.encodedFrame {w : Config.Widths} (p : InPins w) : BitVec 56 :=
  p.reqStation ++ p.reqSeq
    ++ p.reqVal0.extractLsb' 0 8 ++ p.reqVal1.extractLsb' 0 8 ++ p.reqVal2.extractLsb' 0 8 ++ p.reqVal3.extractLsb' 0 8
    ++ p.reqVal0.extractLsb' 8 2 ++ p.reqVal1.extractLsb' 8 2 ++ p.reqVal2.extractLsb' 8 2 ++ p.reqVal3.extractLsb' 8 2

/-- A one-bit output that means something for a live request only. -/
def InPins.bitOut {w : Config.Widths} (p : InPins w) (b : Bool) (port : Config.OutPort) (k : Nat) : Bool :=
  if p.live then b else freeBit port k

/-- A data output that means something when its condition holds for a live request. -/
def InPins.busOut {w : Config.Widths} {n : Nat} (p : InPins w) (valid : Bool) (x : BitVec n) (port : Config.OutPort)
    (k : Nat) : BitVec n :=
  if p.live && valid then x else Config.freePort port k n

/-- R70, R72: the outputs, a combinational function of the inputs and the current table. `k` is the index of the
cycle's free values. -/
def pinOutputs {w : Config.Widths} (p : InPins w) (m : Memory) (k : Nat) : OutPins :=
  { reqReady := true
    rspValid := if p.rst && p.reqValid then freeBit .rspValid k else p.reqValid
    rspErr := p.bitOut (p.takesBuffer && !p.lenOk) .rspErr k
    rspFrameValid := p.bitOut (p.reqOp == 0b00#2) .frameValid k
    rspFrame := p.busOut (p.reqOp == 0b00#2) p.encodedFrame .frame k
    rspPktValid := p.bitOut p.givesPacket .pktValid k
    rspStation := p.busOut p.givesPacket (p.reqFrame.extractLsb' 48 8) .station k
    rspSeq := p.busOut p.givesPacket (p.reqFrame.extractLsb' 40 8) .seq k
    rspVal0 := p.busOut p.givesPacket (p.reqFrame.extractLsb' 6 2 ++ p.reqFrame.extractLsb' 32 8) .val0 k
    rspVal1 := p.busOut p.givesPacket (p.reqFrame.extractLsb' 4 2 ++ p.reqFrame.extractLsb' 24 8) .val1 k
    rspVal2 := p.busOut p.givesPacket (p.reqFrame.extractLsb' 2 2 ++ p.reqFrame.extractLsb' 16 8) .val2 k
    rspVal3 := p.busOut p.givesPacket (p.reqFrame.extractLsb' 0 2 ++ p.reqFrame.extractLsb' 8 8) .val3 k
    rspDecValid := p.bitOut p.givesDecision .decValid k
    rspDecision := p.busOut p.givesDecision (pinDecision (sstRead m p.station) p.seq) .decision k
    dbgPresent := (sstRead m p.dbgStation).isSome
    dbgLast := match sstRead m p.dbgStation with
      | some n => n
      | none => Config.freePort .dbgLast k 8 }

/-- R70, R200: the table after the rising edge that ends the cycle. -/
def pinNextTable {w : Config.Widths} (p : InPins w) (m : Memory) : Memory :=
  if p.rst then []
  else if p.live && p.givesDecision && pinDecision (sstRead m p.station) p.seq == 0b00#2 then
    sstWrite m p.station p.seq
  else m

end Sys2Proof.Machine
end

