-- ==== Sys2Proof/Safety.lean ====
section
/-! DEFINITION. The terms in which claims speak of requests, runs and invariants. -/

namespace Sys2Proof.Machine

/-- Bytes 0 and 1 of a buffer of length 7 (R24, R150). -/
def bufferKey (buf : Buffer) : Option (StationId × Seq) :=
  match buf with
  | [b0, b1, _, _, _, _, _] => some (b0, b1)
  | _ => none

/-- The station and the sequence number that an instruction classifies (R24): those of CLASSIFY, and bytes 0 and 1 of a
RECEIVE whose buffer has length 7. No other instruction concerns a station. -/
def concerns : Instr → Option (StationId × Seq)
  | .encode _ _ _ _ _ _ => none
  | .decode _ => none
  | .classify s n => some (s, n)
  | .receive buf => bufferKey buf
  | .wireframe _ _ _ _ _ _ => none

/-- The station and the sequence number that a cycle classifies; a cycle with reset classifies none (R202). -/
def Cycle.concerns (c : Cycle) : Option (StationId × Seq) :=
  if c.rst then none
  else
    match decode c.req with
    | .ok i => Machine.concerns i
    | .error _ => none

/-- The cycle resets the block or classifies a number of station `x`. -/
def Cycle.touches (x : StationId) (c : Cycle) : Bool :=
  c.rst || (c.concerns.map (·.1) == some x)

/-- The operations that the port word (R70) of a block of the given widths carries whole: values that fit VW bits, and a
buffer of at most 7 bytes, all of it on the bus. -/
def onPortWord (w : Config.Widths) : Instr → Bool
  | .encode _ _ v0 v1 v2 v3 => valueFits v0 w && valueFits v1 w && valueFits v2 w && valueFits v3 w
  | .decode buf => decide (buf.length ≤ Config.frameBytes)
  | .classify _ _ => true
  | .receive buf => decide (buf.length ≤ Config.frameBytes)
  | .wireframe _ _ _ _ _ _ => false

/-- A cycle that presents an instruction, with no reset and station `d` on the debug port. -/
def Cycle.ofInstr (i : Instr) (d : StationId) : Cycle := { rst := false, req := encode i, dbgStation := d }

/-- The number `k` steps ahead of `n` on the ring (R13). -/
def ringAhead (n : Seq) (k : Nat) : Seq := BitVec.ofNat 8 ((n.toNat + k) % Config.ring)

/-- The number `k` steps behind `n` on the ring, for `k` at most 255 (R13). -/
def ringBehind (n : Seq) (k : Nat) : Seq := BitVec.ofNat 8 ((n.toNat + Config.ring - k) % Config.ring)

/-- The step answers `Accept`. -/
def State.accepted (s : State) : Bool := s.rsp.decision? == some .accept

/-- The machine after `k` cycles. -/
def run (k : Nat) (s : State) : Host.Outcome State Fault Refusal := Host.Core.run Sys2Proof.core k s

/-- What the response ports show in the next `k` cycles (R19: with the final table, the observable result of a run). -/
def observe : Nat → State → List Rsp
  | 0, _ => []
  | k + 1, s =>
    match step s with
    | .next t => t.rsp :: observe k t
    | .fault _ => []
    | .refused _ => []

/-- What the response ports show in those of the next `k` cycles that touch station `x`. -/
def observeFor (x : StationId) : Nat → State → List Rsp
  | 0, _ => []
  | k + 1, s =>
    match step s with
    | .next t =>
      if (s.inputs.head?.map (Cycle.touches x)).getD false then t.rsp :: observeFor x k t else observeFor x k t
    | .fault _ => []
    | .refused _ => []

/-- How far forward on the ring the `last` of station `x` moves from one state to the next (R122); 0 when the station is
absent in either. -/
def moved (x : StationId) (s t : State) : Nat :=
  match s.entry x, t.entry x with
  | some a, some b => forwardDistance b a
  | _, _ => 0

/-- How far forward `last` of station `x` moves in total in the next `k` cycles. -/
def travel (x : StationId) : Nat → State → Nat
  | 0, _ => 0
  | k + 1, s =>
    match step s with
    | .next t => moved x s t + travel x k t
    | .fault _ => 0
    | .refused _ => 0

/-- Every entry holds a ring value (R23). -/
def State.lastInRing (s : State) : Prop := ∀ x n, s.entry x = some n → n.toNat ≤ Config.seqMax

/-- The producer's duty (R18, R204) for a cycle: a number that is classified is at most 254. -/
def Cycle.keepsDuty (c : Cycle) : Prop := ∀ x n, c.concerns = some (x, n) → n.toNat ≤ Config.seqMax

/-- The producer keeps its duty in all that is still to be driven, and every entry holds a ring value (R23). -/
def State.ringRange (s : State) : Prop := s.lastInRing ∧ ∀ c ∈ s.inputs, c.keepsDuty

/-- The station table is in canonical form. -/
def State.tableWf (s : State) : Prop := Memory.wf s.sst = true

end Sys2Proof.Machine
end

