-- ==== Sys2Proof/Certificates/Slice0/Obligations.lean ====
section
/-! DEFINITION. The statements for the provers. Each docstring names the rule of the spec it formalises, or says that it
states the model's own choice. -/

open Sys2Proof
open Sys2Proof.Machine

/-! ### Reset, invariants, memory -/

/-- R36, R200: right after reset no station is present, and nothing is pending (R19). -/
def Obligations.ResetTableIsEmpty : Prop :=
  (∀ x, State.reset.entry x = none) ∧ State.reset.inputs = [] ∧ State.reset.rsp = .idle

/-- The state after reset meets both invariants below. -/
def Obligations.ResetMeetsInvariants : Prop :=
  State.reset.tableWf ∧ State.reset.ringRange

/-- The station table stays in canonical form: stations strictly rising, each below 256 (R40, R56; the form is the
model's, log 7). -/
def Obligations.TableStaysCanonical : Prop :=
  ∀ s t : State, s.tableWf → step s = .next t → t.tableWf

/-- R23: while every classified number is at most 254, every `last` is. -/
def Obligations.RingRangeIsKept : Prop :=
  ∀ s t : State, s.ringRange → step s = .next t → t.ringRange

/-- Tables in canonical form that read alike for every station are equal data (the form is the model's, log 7). -/
def Obligations.CanonicalTablesAreEqual : Prop :=
  ∀ m m' : Memory, Memory.wf m = true → Memory.wf m' = true → (∀ x, sstRead m x = sstRead m' x) → m = m'

/-- R57: `SstWrite` sets one entry whole, with the number as it is, and `SstRead` gives it back. -/
def Obligations.TablePrimitivesReadAndWrite : Prop :=
  ∀ (m : Memory) (x y : StationId) (n : Seq),
    sstRead (sstWrite m x n) x = some n ∧ (y ≠ x → sstRead (sstWrite m x n) y = sstRead m y)

/-- R200, R202: a cycle with reset clears every entry; a request in it has no effect on the table and its response is
unspecified. That a cycle with reset and no request shows no response is the model's inference (log 12, from R72's
"`rsp_valid` equals `req_valid`"), not R200's or R202's. -/
def Obligations.ResetCycleClearsTable : Prop :=
  ∀ (s : State) (c : Cycle) (rest : List Cycle), s.inputs = c :: rest → c.rst = true →
    ∃ t, step s = .next t ∧ (∀ x, t.entry x = none) ∧ t.sst = [] ∧ t.inputs = rest ∧
      (c.req.valid = true → t.rsp = .unspecified) ∧ (c.req.valid = false → t.rsp = .idle)

/-! ### Encoding -/

/-- R71 and R61: the decoder gives back every instruction from its request, with every operand at every value. That
WIREFRAME is an instruction, a frame with no operation requested, is the model's choice (log 4). -/
def Obligations.DecodeOfEncodeIsIdentity : Prop :=
  ∀ i : Instr, decode (encode i) = .ok i

/-- An operation's port word gives back the instruction, for every VW and LW that R7 allows; at the default widths it does so
as a word that spec/opcode_table.json numbers, and so does the frame pattern of WIREFRAME. The port word is the model's
choice (log 6), and so is WIREFRAME as an instruction (log 4). -/
def Obligations.TableWordOfInstructionDecodes : Prop :=
  (∀ (w : Config.Widths) (i : Instr), Config.widthsOk w = true → onPortWord w i = true →
    decode (requestOfWord (portWord (encode i) w)) = .ok i) ∧
  (∀ i : Instr, onPortWord Config.widths i = true → decodeTableWord 160 (portWord (encode i)).toNat = some i) ∧
  (∀ sid seq v0 v1 v2 v3,
    decodeTableWord 56 (busOfFields sid seq v0 v1 v2 v3).toNat = some (.wireframe sid seq v0 v1 v2 v3))

/-- R71's four codes and two frames of spec/95_test_vectors.md (E3 and F3), as words. That the code alone stands for an
operation whose operands are all 0 is the model's choice (log 6), and so is that a frame of 56 bits decodes to an instruction
(logs 4 and 6). -/
def Obligations.WrittenWordsDecode : Prop :=
  decodeTableWord 8 0 = some (.encode 0 0 0 0 0 0) ∧ decodeTableWord 8 1 = some (.decode []) ∧
  decodeTableWord 8 2 = some (.classify 0 0) ∧ decodeTableWord 8 3 = some (.receive []) ∧
  decodeTableWord 56 0x0101FF0055AAC6 = some (.wireframe 1 1 0x3FF 0x000 0x155 0x2AA) ∧
  decodeTableWord 56 0x0102030405061B = some (.wireframe 1 2 3 260 517 774)

/-- R70: an input that an operation does not use is ignored by it. -/
def Obligations.UnusedPortsAreIgnored : Prop :=
  ∀ r r' : Request, r.valid = true → r'.valid = true → r.op = r'.op →
    (r.op = 0b00#2 → r.station = r'.station → r.seq = r'.seq → r.val0 = r'.val0 → r.val1 = r'.val1 →
      r.val2 = r'.val2 → r.val3 = r'.val3 → decode r = decode r') ∧
    (r.op = 0b01#2 ∨ r.op = 0b11#2 → r.buf = r'.buf → decode r = decode r') ∧
    (r.op = 0b10#2 → r.station = r'.station → r.seq = r'.seq → decode r = decode r')

/-- R61 (the bit pattern) against R64 and R65 (the formulas): both give the same fields of a frame, and the same frame. -/
def Obligations.FramePatternAgreesWithFormulas : Prop :=
  (∀ b0 b1 b2 b3 b4 b5 b6 : Byte, wireframeOfBus (busOfBytes b0 b1 b2 b3 b4 b5 b6) =
    .wireframe b0 b1 (laneValue b2 b6 0) (laneValue b3 b6 1) (laneValue b4 b6 2) (laneValue b5 b6 3)) ∧
  (∀ (sid : StationId) (seq : Seq) (v0 v1 v2 v3 : Value),
    busOfFrame (encodeFrame sid seq v0.toNat v1.toNat v2.toNat v3.toNat) = busOfFields sid seq v0 v1 v2 v3)

/-! ### Steps -/

/-- A cycle without reset whose ports decode to an instruction runs that instruction, on the state whose inputs have moved
on, whose debug port has been sampled, and whose table is as it was. -/
def Obligations.StepRunsDecodedInstruction : Prop :=
  ∀ (s : State) (c : Cycle) (rest : List Cycle) (i : Instr), s.inputs = c :: rest → c.rst = false →
    decode c.req = .ok i →
    step s = exec i { s with inputs := rest, dbg := some (c.dbgStation, s.entry c.dbgStation), freeIdx := s.freeIdx + 1 }

/-- R71, R76 (NOP): a cycle with `req_valid = 0` has no response and changes no entry, whatever stands on the bus. -/
def Obligations.IdleCycleChangesNothing : Prop :=
  ∀ (s : State) (c : Cycle) (rest : List Cycle), s.inputs = c :: rest → c.rst = false → c.req.valid = false →
    ∃ t, step s = .next t ∧ t.sst = s.sst ∧ t.inputs = rest ∧ t.rsp = .idle ∧ t.outPins.rspValid = false

/-- With nothing left to drive, a step changes no entry and gives no response (the model's choice, log 8). -/
def Obligations.UndrivenStepChangesNoEntry : Prop :=
  ∀ s : State, s.inputs = [] →
    ∃ t, step s = .next t ∧ t.sst = s.sst ∧ t.inputs = [] ∧ t.rsp = .idle ∧ t.dbg = none

/-- A word of spec/opcode_table.json, presented, is what the very next step runs, on the same table (log 6). -/
def Obligations.PresentedTableWordRuns : Prop :=
  ∀ (s : State) (nbits w : Nat) (i : Instr), decodeTableWord nbits w = some i →
    ∃ t, step (s.withFetchWord nbits w) = exec i t ∧ t.sst = s.sst ∧ t.inputs = s.inputs

/-- R173: every state takes a step, the block is always ready, and a request changes no entry but its own station's. -/
def Obligations.NoConditionIsFatal : Prop :=
  (∀ s : State, ∃ t, step s = .next t) ∧ (∀ (i : Instr) (s : State), ∃ t, exec i s = .next t) ∧
  (∀ s : State, s.outPins.reqReady = true) ∧
  (∀ (s t : State) (c : Cycle) (rest : List Cycle) (x : StationId), s.inputs = c :: rest → c.rst = false →
    step s = .next t → c.concerns.map (·.1) ≠ some x → t.entry x = s.entry x)

/-! ### The codec -/

/-- R65: ENCODE answers, for every state and operands, and so for every VW, the frame of the formulas, and changes nothing
else. -/
def Obligations.EncodeGivesFrame : Prop :=
  ∀ (sid : StationId) (seq : Seq) (v0 v1 v2 v3 : Nat) (s : State), ∃ f : WireFrame,
    exec (.encode sid seq v0 v1 v2 v3) s = .next { s with rsp := .response (.frame f) } ∧
    f[0] = sid ∧ f[1] = seq ∧
    f[2].toNat = v0 % 256 ∧ f[3].toNat = v1 % 256 ∧ f[4].toNat = v2 % 256 ∧ f[5].toNat = v3 % 256 ∧
    f[6].toNat = v0 / 256 % 4 * 64 + v1 / 256 % 4 * 16 + v2 / 256 % 4 * 4 + v3 / 256 % 4

/-- R64: DECODE of a 7-byte buffer answers, in every state, the packet of the formulas, and changes nothing else. -/
def Obligations.DecodeGivesPacket : Prop :=
  ∀ (b0 b1 b2 b3 b4 b5 b6 : Byte) (s : State), ∃ p : Packet,
    exec (.decode [b0, b1, b2, b3, b4, b5, b6]) s = .next { s with rsp := .response (.packet p) } ∧
    p.stationId = b0 ∧ p.sequenceNumber = b1 ∧
    p.values[0].toNat = b6.toNat / 64 % 4 * 256 + b2.toNat ∧
    p.values[1].toNat = b6.toNat / 16 % 4 * 256 + b3.toNat ∧
    p.values[2].toNat = b6.toNat / 4 % 4 * 256 + b4.toNat ∧
    p.values[3].toNat = b6.toNat % 4 * 256 + b5.toNat

/-- R97: DECODE of a buffer of any other length answers `MalformedFrame` and no part of a packet; on the pins no packet is
valid and the packet outputs are unspecified. -/
def Obligations.DecodeOfWrongLengthIsMalformed : Prop :=
  ∀ (buf : Buffer) (s : State), buf.length ≠ 7 → ∃ t,
    exec (.decode buf) s = .next t ∧ t = { s with rsp := .response (.error .malformedFrame) } ∧
    t.rsp.packet? = none ∧ t.outPins.rspErr = true ∧ t.outPins.rspPktValid = false ∧
    t.outPins.rspStation = Config.freePort .station t.freeIdx 8 ∧
    t.outPins.rspSeq = Config.freePort .seq t.freeIdx 8 ∧
    t.outPins.rspVal0 = Config.freePort .val0 t.freeIdx 10 ∧
    t.outPins.rspVal1 = Config.freePort .val1 t.freeIdx 10 ∧
    t.outPins.rspVal2 = Config.freePort .val2 t.freeIdx 10 ∧
    t.outPins.rspVal3 = Config.freePort .val3 t.freeIdx 10

/-- R91: ENCODE of a value and of that value mod 1024 give the same frame, in every position, and for every two widths of
the value inputs that are at least 10 (R7). -/
def Obligations.EncodeTruncatesValues : Prop :=
  (∀ (w w' : Nat) (sid : StationId) (seq : Seq) (v0 v1 v2 v3 : BitVec w) (u0 u1 u2 u3 : BitVec w') (s : State),
    10 ≤ w → 10 ≤ w' → v0.toNat % 1024 = u0.toNat % 1024 → v1.toNat % 1024 = u1.toNat % 1024 →
    v2.toNat % 1024 = u2.toNat % 1024 → v3.toNat % 1024 = u3.toNat % 1024 →
    exec (.encode sid seq v0.toNat v1.toNat v2.toNat v3.toNat) s
      = exec (.encode sid seq u0.toNat u1.toNat u2.toNat u3.toNat) s) ∧
  (∀ (sid : StationId) (seq : Seq) (v0 v1 v2 v3 u0 u1 u2 u3 : Nat) (s : State),
    u0 = v0 % 1024 → u1 = v1 % 1024 → u2 = v2 % 1024 → u3 = v3 % 1024 →
    exec (.encode sid seq v0 v1 v2 v3) s = exec (.encode sid seq u0 u1 u2 u3) s ∧
    exec (.encode sid seq v0 v1 v2 v3) s = exec (.encode sid seq u0 v1 v2 v3) s ∧
    exec (.encode sid seq v0 v1 v2 v3) s = exec (.encode sid seq v0 u1 v2 v3) s ∧
    exec (.encode sid seq v0 v1 v2 v3) s = exec (.encode sid seq v0 v1 u2 v3) s ∧
    exec (.encode sid seq v0 v1 v2 v3) s = exec (.encode sid seq v0 v1 v2 u3) s)

/-- R95: DECODE of ENCODE's frame gives the ids as they were and each value mod 1024. -/
def Obligations.DecodeOfEncodedFrame : Prop :=
  ∀ (sid : StationId) (seq : Seq) (v0 v1 v2 v3 : Nat) (s : State), ∃ (f : WireFrame) (p : Packet),
    exec (.encode sid seq v0 v1 v2 v3) s = .next { s with rsp := .response (.frame f) } ∧
    exec (.decode f.toList) s = .next { s with rsp := .response (.packet p) } ∧
    p.stationId = sid ∧ p.sequenceNumber = seq ∧
    p.values[0].toNat = v0 % 1024 ∧ p.values[1].toNat = v1 % 1024 ∧
    p.values[2].toNat = v2 % 1024 ∧ p.values[3].toNat = v3 % 1024

/-- R96: ENCODE of DECODE's packet gives back the 7 bytes. -/
def Obligations.EncodeOfDecodedPacket : Prop :=
  ∀ (buf : Buffer) (s : State), buf.length = 7 → ∃ (p : Packet) (f : WireFrame),
    exec (.decode buf) s = .next { s with rsp := .response (.packet p) } ∧
    exec (.encode p.stationId p.sequenceNumber p.values[0].toNat p.values[1].toNat
      p.values[2].toNat p.values[3].toNat) s
      = .next { s with rsp := .response (.frame f) } ∧
    f.toList = buf

/-- R99: lane `i`'s byte and slot depend on value `i` alone, and value `i` on its byte and slot alone. -/
def Obligations.LanesAreIndependent : Prop :=
  (∀ (sid sid' : StationId) (seq seq' : Seq) (v0 v1 v2 v3 u0 u1 u2 u3 : Nat),
    let f := encodeFrame sid seq v0 v1 v2 v3
    let g := encodeFrame sid' seq' u0 u1 u2 u3
    (v0 = u0 → f[2] = g[2] ∧ f[6].extractLsb' 6 2 = g[6].extractLsb' 6 2) ∧
    (v1 = u1 → f[3] = g[3] ∧ f[6].extractLsb' 4 2 = g[6].extractLsb' 4 2) ∧
    (v2 = u2 → f[4] = g[4] ∧ f[6].extractLsb' 2 2 = g[6].extractLsb' 2 2) ∧
    (v3 = u3 → f[5] = g[5] ∧ f[6].extractLsb' 0 2 = g[6].extractLsb' 0 2)) ∧
  (∀ f g : WireFrame,
    (f[2] = g[2] → f[6].extractLsb' 6 2 = g[6].extractLsb' 6 2 → (decodeFrame f).values[0] = (decodeFrame g).values[0]) ∧
    (f[3] = g[3] → f[6].extractLsb' 4 2 = g[6].extractLsb' 4 2 → (decodeFrame f).values[1] = (decodeFrame g).values[1]) ∧
    (f[4] = g[4] → f[6].extractLsb' 2 2 = g[6].extractLsb' 2 2 → (decodeFrame f).values[2] = (decodeFrame g).values[2]) ∧
    (f[5] = g[5] → f[6].extractLsb' 0 2 = g[6].extractLsb' 0 2 → (decodeFrame f).values[3] = (decodeFrame g).values[3]))

/-- R62: within byte 6 the slot of value `i` is bits `7-2i` and `6-2i`, which hold bits 9 and 8 of the value. -/
def Obligations.SlotOfEachValueInByteSix : Prop :=
  ∀ (sid : StationId) (seq : Seq) (v0 v1 v2 v3 : Nat),
    let b6 := (encodeFrame sid seq v0 v1 v2 v3)[6]
    (slotShift 0 = 6 ∧ slotShift 1 = 4 ∧ slotShift 2 = 2 ∧ slotShift 3 = 0) ∧
    (b6.getLsbD 7 = v0.testBit 9 ∧ b6.getLsbD 6 = v0.testBit 8) ∧
    (b6.getLsbD 5 = v1.testBit 9 ∧ b6.getLsbD 4 = v1.testBit 8) ∧
    (b6.getLsbD 3 = v2.testBit 9 ∧ b6.getLsbD 2 = v2.testBit 8) ∧
    (b6.getLsbD 1 = v3.testBit 9 ∧ b6.getLsbD 0 = v3.testBit 8)

/-- R92, R98: the answer of ENCODE and of DECODE depends on the operands alone, and nothing but the response changes. -/
def Obligations.CodecIsPure : Prop :=
  (∀ (sid : StationId) (seq : Seq) (v0 v1 v2 v3 : Nat), ∃ r, ∀ s : State,
    exec (.encode sid seq v0 v1 v2 v3) s = .next { s with rsp := .response r }) ∧
  (∀ buf : Buffer, ∃ r, ∀ s : State, exec (.decode buf) s = .next { s with rsp := .response r })

/-- The frame of the forms that store nothing, ENCODE, DECODE and WIREFRAME: the table, byte by byte, and every port field
but the response. The WIREFRAME clause is the model's choice (log 4): R77 says only that it is not an operation. -/
def Obligations.StorelessFormsFrame : Prop :=
  ∀ (i : Instr) (s t : State),
    ((∃ sid seq v0 v1 v2 v3, i = .encode sid seq v0 v1 v2 v3) ∨ (∃ buf, i = .decode buf) ∨
      (∃ sid seq v0 v1 v2 v3, i = .wireframe sid seq v0 v1 v2 v3)) →
    exec i s = .next t →
    t.sst = s.sst ∧ (∀ a, Memory.read t.sst a = Memory.read s.sst a) ∧ t.inputs = s.inputs ∧ t.dbg = s.dbg ∧
      t.freeIdx = s.freeIdx

/-- WIREFRAME, a frame on the bus with no operation requested, is the no-operation (R71, R77; the model's choice, log 4). -/
def Obligations.WireframeIsNoOperation : Prop :=
  ∀ (sid : StationId) (seq : Seq) (v0 v1 v2 v3 : Value) (s : State),
    exec (.wireframe sid seq v0 v1 v2 v3) s = .next { s with rsp := .idle }

/-! ### The validator -/

/-- R122: the forward distance lies in 0..254, differs from `n - last` by a multiple of 255, and counts the steps from
`last` to `n` on the ring. -/
def Obligations.ForwardDistanceIsRingRemainder : Prop :=
  ∀ n last : Seq, forwardDistance n last ≤ 254 ∧
    (255 : Int) ∣ ((n.toNat : Int) - (last.toNat : Int) - (forwardDistance n last : Int)) ∧
    (last.toNat + forwardDistance n last) % 255 = n.toNat % 255

/-- R129: the 8-bit form with a borrow computes the same distance, and so does the form by cases. -/
def Obligations.EightBitFormComputesDistance : Prop :=
  ∀ n last : Seq, (pinDistance n last).toNat = forwardDistance n last ∧
    (forwardDistance n last : Int) =
      if (n.toNat : Int) - last.toNat < 0 then (n.toNat : Int) - last.toNat + 255
      else if (n.toNat : Int) - last.toNat = 255 then 0
      else (n.toNat : Int) - last.toNat

/-- R121: the first request of a station is accepted whatever its number, which is stored as it is. -/
def Obligations.FirstRequestIsAccepted : Prop :=
  ∀ (s : State) (st : StationId) (n : Seq), s.entry st = none →
    ∃ t, exec (.classify st n) s = .next t ∧ t.rsp = .response (.decision .accept) ∧ t.entry st = some n ∧
      t = { s with sst := sstWrite s.sst st n, rsp := .response (.decision .accept) }

/-- R123: distance 0 is a duplicate and nothing is written; among 0..254 it means the number is `last`. -/
def Obligations.DistanceZeroIsDuplicate : Prop :=
  ∀ (s : State) (st : StationId) (n last : Seq), s.entry st = some last →
    (forwardDistance n last = 0 →
      exec (.classify st n) s = .next { s with rsp := .response (.decision .rejectDuplicate) }) ∧
    (n.toNat ≤ 254 → last.toNat ≤ 254 → (forwardDistance n last = 0 ↔ n = last))

/-- R124: distances 1 to 127, both included, are accepted, and the number itself becomes `last`; among 0..254 that is
`last + fd` on the ring. -/
def Obligations.AheadHalfIsAccepted : Prop :=
  ∀ (s : State) (st : StationId) (n last : Seq), s.entry st = some last →
    1 ≤ forwardDistance n last → forwardDistance n last ≤ 127 →
    (∃ t, exec (.classify st n) s = .next t ∧ t.rsp = .response (.decision .accept) ∧ t.entry st = some n ∧
      t = { s with sst := sstWrite s.sst st n, rsp := .response (.decision .accept) }) ∧
    (n.toNat ≤ 254 → last.toNat ≤ 254 → n.toNat = (last.toNat + forwardDistance n last) % 255)

/-- R125: distances 128 to 254, both included, are stale, and nothing is written. -/
def Obligations.BehindHalfIsStale : Prop :=
  ∀ (s : State) (st : StationId) (n last : Seq), s.entry st = some last →
    128 ≤ forwardDistance n last → forwardDistance n last ≤ 254 →
    exec (.classify st n) s = .next { s with rsp := .response (.decision .rejectStale) }

/-- R126: CLASSIFY completes on every state and operands with one of the three decisions and never an error, and which one
is settled by the entry and the distance. -/
def Obligations.ClassifyIsTotal : Prop :=
  ∀ (s : State) (st : StationId) (n : Seq), ∃ t d,
    exec (.classify st n) s = .next t ∧ t.rsp = .response (.decision d) ∧
    (d = .accept ↔ s.entry st = none ∨
      ∃ last, s.entry st = some last ∧ 1 ≤ forwardDistance n last ∧ forwardDistance n last ≤ 127) ∧
    (d = .rejectDuplicate ↔ ∃ last, s.entry st = some last ∧ forwardDistance n last = 0) ∧
    (d = .rejectStale ↔ ∃ last, s.entry st = some last ∧ 128 ≤ forwardDistance n last)

/-- R127: after `Accept` the entry is the number; after a rejection the table is as it was; no other entry changes; and the
values a packet carries play no part. -/
def Obligations.StateChangesOnlyOnAccept : Prop :=
  (∀ (s t : State) (st : StationId) (n : Seq), exec (.classify st n) s = .next t →
    (t.accepted = true → t.entry st = some n) ∧ (t.accepted = false → t.sst = s.sst) ∧
    (∀ y, y ≠ st → t.entry y = s.entry y)) ∧
  (∀ (s t u : State) (b0 b1 b2 b3 b4 b5 b6 c2 c3 c4 c5 c6 : Byte),
    exec (.receive [b0, b1, b2, b3, b4, b5, b6]) s = .next t →
    exec (.receive [b0, b1, c2, c3, c4, c5, c6]) s = .next u →
    t.rsp.decision? = u.rsp.decision? ∧ t.sst = u.sst)

/-- The frame of the forms that may store, CLASSIFY and RECEIVE: only the response and the entry at the station id,
unmodified (R57), may change; every other byte of the table reads as before. -/
def Obligations.StoringFormsFrame : Prop :=
  ∀ (i : Instr) (s t : State), ((∃ st n, i = .classify st n) ∨ (∃ buf, i = .receive buf)) →
    exec i s = .next t →
    t.inputs = s.inputs ∧ t.dbg = s.dbg ∧ t.freeIdx = s.freeIdx ∧
    (∀ x n, concerns i = some (x, n) → ∀ a, a ≠ x.toNat → Memory.read t.sst a = Memory.read s.sst a) ∧
    (concerns i = none → t.sst = s.sst ∧ ∀ a, Memory.read t.sst a = Memory.read s.sst a)

/-- R22: an entry comes into being exactly when its station's number is classified, by the step that accepts it. -/
def Obligations.EntryIsCreatedByFirstRequest : Prop :=
  ∀ (s t : State) (c : Cycle) (rest : List Cycle) (x : StationId), s.inputs = c :: rest →
    step s = .next t → s.entry x = none →
    (t.entry x ≠ none ↔ ∃ n, c.concerns = some (x, n)) ∧
    (∀ n, c.concerns = some (x, n) → t.entry x = some n ∧ t.rsp.decision? = some .accept)

/-- R26: an operation neither writes nor reads the entry of a station it does not concern. -/
def Obligations.EntriesAreIndependent : Prop :=
  (∀ (i : Instr) (s t : State) (y : StationId), exec i s = .next t →
    (∀ x n, concerns i = some (x, n) → y ≠ x) → t.entry y = s.entry y) ∧
  (∀ (i : Instr) (s s' t t' : State), (∀ x n, concerns i = some (x, n) → s.entry x = s'.entry x) → exec i s = .next t → exec i s' = .next t' →
    t.rsp = t'.rsp ∧ ∀ x n, concerns i = some (x, n) → t.entry x = t'.entry x)

/-- R27: an entry, once created, stays until reset. -/
def Obligations.EntryLivesUntilReset : Prop :=
  ∀ (s t : State) (x : StationId), (∀ c, s.inputs.head? = some c → c.rst = false) →
    step s = .next t → s.entry x ≠ none → t.entry x ≠ none

/-- R128: 255 compares as 0 and is stored as 255; a producer that sends it after 254 loses the packet numbered 0 (R211). -/
def Obligations.Raw255ComparesAsZero : Prop :=
  (∀ x : Seq, forwardDistance 255#8 x = forwardDistance 0#8 x ∧ forwardDistance x 255#8 = forwardDistance x 0#8) ∧
  (∀ (s : State) (st : StationId), s.entry st = some 254#8 → ∃ t u,
    exec (.classify st 255#8) s = .next t ∧ t.accepted = true ∧ t.entry st = some 255#8 ∧
    exec (.classify st 0#8) t = .next { t with rsp := .response (.decision .rejectDuplicate) } ∧
    exec (.classify st 1#8) t = .next u ∧ u.accepted = true ∧ u.entry st = some 1#8)

/-- D12 and U2: no treatment of 255 changes the outcome of a number that is at most 254. -/
def Obligations.Seq255TreatmentIsIrrelevantInRing : Prop :=
  ∀ (p q : Config.Seq255) (m : Memory) (st : StationId) (n : Seq), n.toNat ≤ Config.seqMax →
    classifyAs p m st n = classifyAs q m st n

/-- R131: the same CLASSIFY at once again is never accepted: a duplicate after an `Accept`, else the same rejection. -/
def Obligations.ImmediateRepeatIsRejected : Prop :=
  ∀ (s t u : State) (st : StationId) (n : Seq), exec (.classify st n) s = .next t →
    exec (.classify st n) t = .next u →
    u.accepted = false ∧ u.sst = t.sst ∧ (t.accepted = true → u.rsp = .response (.decision .rejectDuplicate)) ∧
    (t.accepted = false → u.rsp = t.rsp)

/-- R222: however many times the last accepted number is presented again, each presentation is a duplicate. -/
def Obligations.RepeatsNeverBecomeAcceptable : Prop :=
  ∀ (k : Nat) (s : State) (st d : StationId) (n : Seq), s.entry st = some n →
    s.inputs = List.replicate k (Cycle.ofInstr (.classify st n) d) →
    observe k s = List.replicate k (.response (.decision .rejectDuplicate)) ∧
    ∃ t, run k s = .next t ∧ t.sst = s.sst

/-- R132: from a ring value `L`, the numbers 1..127 steps ahead are exactly those accepted, `L` itself is the duplicate, and
the numbers 1..127 steps behind are exactly the stale ones. -/
def Obligations.HalfRingIsAccepted : Prop :=
  ∀ (s : State) (st : StationId) (last n : Seq), s.entry st = some last → last.toNat ≤ 254 → n.toNat ≤ 254 →
    ∃ t, exec (.classify st n) s = .next t ∧
      (t.rsp = .response (.decision .accept) ↔ ∃ k, 1 ≤ k ∧ k ≤ 127 ∧ n = ringAhead last k) ∧
      (t.rsp = .response (.decision .rejectDuplicate) ↔ n = last) ∧
      (t.rsp = .response (.decision .rejectStale) ↔ ∃ j, 1 ≤ j ∧ j ≤ 127 ∧ n = ringBehind last j)

/-- R133: after an `Accept` of `n`, the numbers 1..127 steps behind `n` are stale, the previous `last` among them. -/
def Obligations.NumbersBehindAcceptedAreStale : Prop :=
  ∀ (s t : State) (st : StationId) (n : Seq), n.toNat ≤ 254 → exec (.classify st n) s = .next t →
    t.accepted = true →
    (∀ j, 1 ≤ j → j ≤ 127 →
      exec (.classify st (ringBehind n j)) t = .next { t with rsp := .response (.decision .rejectStale) }) ∧
    (∀ last, s.entry st = some last →
      exec (.classify st last) t = .next { t with rsp := .response (.decision .rejectStale) })

/-- R134: a number, once accepted, is not accepted again until `last` has moved at least 128 steps forward in total. -/
def Obligations.ReplayNeedsHalfRingOfTravel : Prop :=
  ∀ (k : Nat) (s t u : State) (x : StationId) (n : Seq) (c : Cycle) (rest : List Cycle),
    s.entry x = some n → run k s = .next t → (∀ c' ∈ s.inputs.take k, c'.rst = false) →
    t.inputs = c :: rest → c.concerns = some (x, n) → step t = .next u → u.accepted = true →
    128 ≤ travel x k s

/-- R212: a number 127 steps ahead is accepted, after which the next 126 genuine numbers are stale, the 127th is a duplicate
and the 128th is accepted. -/
def Obligations.ForgedNumberLocksOutStation : Prop :=
  ∀ (s : State) (st : StationId) (last : Seq), s.entry st = some last → last.toNat ≤ 254 →
    ∃ t u, exec (.classify st (ringAhead last 127)) s = .next t ∧ t.accepted = true ∧
      (∀ k, 1 ≤ k → k ≤ 126 →
        exec (.classify st (ringAhead last k)) t = .next { t with rsp := .response (.decision .rejectStale) }) ∧
      exec (.classify st (ringAhead last 127)) t = .next { t with rsp := .response (.decision .rejectDuplicate) } ∧
      exec (.classify st (ringAhead last 128)) t = .next u ∧ u.accepted = true

/-! ### The receive path and the error -/

/-- R151: a malformed RECEIVE answers the error and nothing else, leaves the table as it is, and the cycle after it goes as
if it had not occurred. -/
def Obligations.MalformedReceiveChangesNothing : Prop :=
  ∀ (buf : Buffer) (s : State), buf.length ≠ 7 →
    exec (.receive buf) s = .next { s with rsp := .response (.error .malformedFrame) } ∧
    (∀ (d : StationId) (c : Cycle) (rest : List Cycle) (t u v : State),
      s.inputs = Cycle.ofInstr (.receive buf) d :: c :: rest → step s = .next t → step t = .next u →
      step { s with inputs := c :: rest } = .next v →
      u.sst = v.sst ∧ u.rsp = v.rsp ∧ u.dbg = v.dbg ∧ u.inputs = v.inputs)

/-- R152: a RECEIVE of 7 bytes completes with the pair of the decoded packet and the decision, whichever decision it is, and
the values do not influence it. -/
def Obligations.ReceiveReturnsPair : Prop :=
  ∀ (b0 b1 b2 b3 b4 b5 b6 : Byte) (s : State),
    exec (.receive [b0, b1, b2, b3, b4, b5, b6]) s =
      .next { s with
        sst := (classify s.sst b0 b1).1
        rsp := .response (.packetDecision (decodeFrame #v[b0, b1, b2, b3, b4, b5, b6]) (classify s.sst b0 b1).2) }

/-- R153: RECEIVE does what DECODE and then CLASSIFY of the decoded fields do. -/
def Obligations.ReceiveIsDecodeThenClassify : Prop :=
  ∀ (buf : Buffer) (s : State), ∃ t u,
    exec (.decode buf) s = .next t ∧ exec (.receive buf) s = .next u ∧
    (t.rsp = .response (.error .malformedFrame) → u = t) ∧
    (∀ p, t.rsp = .response (.packet p) → ∃ v d,
      exec (.classify p.stationId p.sequenceNumber) t = .next v ∧ v.rsp = .response (.decision d) ∧
      u = { v with rsp := .response (.packetDecision p d) })

/-- R170: the error comes from DECODE and RECEIVE of a buffer whose length is not 7 and from nothing else; it writes no
state, and `rsp_err` shows it. -/
def Obligations.MalformedFrameOnlyFromLength : Prop :=
  ∀ (i : Instr) (s t : State), exec i s = .next t →
    (t.rsp = .response (.error .malformedFrame) ↔
      ∃ buf, (i = .decode buf ∨ i = .receive buf) ∧ buf.length ≠ 7) ∧
    (t.rsp = .response (.error .malformedFrame) →
      t = { s with rsp := .response (.error .malformedFrame) } ∧ t.outPins.rspErr = true)

/-- R31, R171, R35: no later step reads a response: states that differ only in what was shown, and in the index of free
values, go on alike. -/
def Obligations.ResponsesAreNotRemembered : Prop :=
  ∀ (k : Nat) (s s' : State), s.sst = s'.sst → s.inputs = s'.inputs →
    observe k s = observe k s' ∧
    ∀ t t', run k s = .next t → run k s' = .next t' → t.sst = t'.sst ∧ t.inputs = t'.inputs

/-! ### The pins -/

/-- R72 and R74: which indicator outputs each outcome shows. -/
def Obligations.IndicatorsOfEachOutcome : Prop :=
  ∀ (i : Instr) (s t : State), exec i s = .next t →
    let o := t.outPins
    (∀ sid seq v0 v1 v2 v3, i = .encode sid seq v0 v1 v2 v3 →
      o.rspValid ∧ !o.rspErr ∧ o.rspFrameValid ∧ !o.rspPktValid ∧ !o.rspDecValid) ∧
    (∀ buf, i = .decode buf → buf.length = 7 →
      o.rspValid ∧ !o.rspErr ∧ !o.rspFrameValid ∧ o.rspPktValid ∧ !o.rspDecValid) ∧
    (∀ st n, i = .classify st n →
      o.rspValid ∧ !o.rspErr ∧ !o.rspFrameValid ∧ !o.rspPktValid ∧ o.rspDecValid) ∧
    (∀ buf, i = .receive buf → buf.length = 7 →
      o.rspValid ∧ !o.rspErr ∧ !o.rspFrameValid ∧ o.rspPktValid ∧ o.rspDecValid) ∧
    (∀ buf, (i = .decode buf ∨ i = .receive buf) → buf.length ≠ 7 →
      o.rspValid ∧ o.rspErr ∧ !o.rspFrameValid ∧ !o.rspPktValid ∧ !o.rspDecValid)

/-- R73: the codes of the decisions; the fourth code is never shown for a decision. -/
def Obligations.DecisionCodesOnPins : Prop :=
  ∀ s : State,
    (s.rsp.decision? = some .accept → s.outPins.rspDecision = 0b00#2) ∧
    (s.rsp.decision? = some .rejectDuplicate → s.outPins.rspDecision = 0b01#2) ∧
    (s.rsp.decision? = some .rejectStale → s.outPins.rspDecision = 0b10#2) ∧
    (s.rsp.decision? ≠ none → s.outPins.rspDecision ≠ 0b11#2)

/-- R156: the debug port shows the entry as it stood before the cycle's request, leaves an absent entry's `last`
unspecified, and affects nothing else. That it does so in a cycle with reset, where it shows the entry as it stood before the
edge, is the model's inference (log 12). -/
def Obligations.DebugPortShowsEntryBefore : Prop :=
  ∀ (s t t' : State) (c : Cycle) (rest : List Cycle) (d' : StationId), s.inputs = c :: rest → step s = .next t →
    step { s with inputs := { c with dbgStation := d' } :: rest } = .next t' →
    t.outPins.dbgPresent = (s.entry c.dbgStation).isSome ∧
    (∀ n, s.entry c.dbgStation = some n → t.outPins.dbgLast = n) ∧
    (s.entry c.dbgStation = none → t.outPins.dbgLast = Config.freePort .dbgLast t.freeIdx 8) ∧
    t'.sst = t.sst ∧ t'.rsp = t.rsp ∧ t'.inputs = t.inputs

/-- R70: on the pins, what an operation that takes a buffer answers and does depends, unless `req_len = 7`, on neither the
frame bus nor any operand port. -/
def Obligations.FramePinsIgnoredUnlessLengthSeven : Prop :=
  ∀ (w : Config.Widths) (p : InPins w) (m : Memory) (k : Nat) (f : BitVec 56) (st n : BitVec 8) (v0 v1 v2 v3 : BitVec w.vw),
    p.takesBuffer = true → p.reqLen ≠ 7 →
    let q := { p with reqFrame := f, reqStation := st, reqSeq := n, reqVal0 := v0, reqVal1 := v1, reqVal2 := v2,
                      reqVal3 := v3 }
    pinOutputs q m k = pinOutputs p m k ∧ pinNextTable q m = pinNextTable p m

/-- R8, R7: the pin-level design, for every VW and LW that R7 allows, wired from bus slices and 8-bit arithmetic, shows on
every output what the operation level's step answers, and leaves the same table, in every state and for every cycle. In a
cycle with reset, that `rsp_valid` is free beside a request and that the debug port shows the entry before the edge are the
model's inferences (log 12); the value of `req_len` for a length that LW bits cannot hold, and the bus bytes that a short
buffer does not have, are its choice (log 5). -/
def Obligations.PinLevelRefinesOperationLevel : Prop :=
  ∀ (w : Config.Widths) (s t : State) (c : Cycle) (rest : List Cycle), Config.widthsOk w = true →
    s.inputs = c :: rest → step s = .next t →
    t.outPins = pinOutputs (c.pins w) s.sst t.freeIdx ∧ t.sst = pinNextTable (c.pins w) s.sst

/-- R7, R8: VW and LW change no result: blocks of any two widths that R7 allows, driven with the same cycle, show the same
outputs and leave the same table, also where a value or a length does not fit the narrower ports (how such a length is shown
is the model's choice, log 5). -/
def Obligations.WidthsChangeNoResult : Prop :=
  ∀ (w w' : Config.Widths) (c : Cycle) (m : Memory) (k : Nat), Config.widthsOk w = true → Config.widthsOk w' = true →
    pinOutputs (c.pins w) m k = pinOutputs (c.pins w') m k ∧ pinNextTable (c.pins w) m = pinNextTable (c.pins w') m

/-! ### Runs -/

/-- R26, R52: over a whole run, a station's answers and its final entry are those of the run in which only resets and the
requests that classify a number of that station are presented. -/
def Obligations.StationSeesOnlyItsOwnRequests : Prop :=
  ∀ (x : StationId) (s t t' : State),
    run s.inputs.length s = .next t →
    run (s.inputs.filter (Cycle.touches x)).length { s with inputs := s.inputs.filter (Cycle.touches x) } = .next t' →
    t.entry x = t'.entry x ∧
    observeFor x s.inputs.length s =
      observe (s.inputs.filter (Cycle.touches x)).length { s with inputs := s.inputs.filter (Cycle.touches x) }
end

