-- ==== Sys2Proof/Laws/State.lean ====
section
/-! SUPPORT. One lemma per field per update of State: no later proof unfolds a record update. -/

namespace Sys2Proof.Machine

@[simp] theorem State.respond_sst (s : State) (r : Response) : (s.respond r).sst = s.sst := rfl
@[simp] theorem State.respond_inputs (s : State) (r : Response) : (s.respond r).inputs = s.inputs := rfl
@[simp] theorem State.respond_rsp (s : State) (r : Response) : (s.respond r).rsp = .response r := rfl
@[simp] theorem State.respond_dbg (s : State) (r : Response) : (s.respond r).dbg = s.dbg := rfl
@[simp] theorem State.respond_freeIdx (s : State) (r : Response) : (s.respond r).freeIdx = s.freeIdx := rfl

@[simp] theorem State.raise_sst (s : State) : s.raiseMalformedFrame.sst = s.sst := rfl
@[simp] theorem State.raise_inputs (s : State) : s.raiseMalformedFrame.inputs = s.inputs := rfl
@[simp] theorem State.raise_rsp (s : State) : s.raiseMalformedFrame.rsp = .response (.error .malformedFrame) := rfl
@[simp] theorem State.raise_dbg (s : State) : s.raiseMalformedFrame.dbg = s.dbg := rfl
@[simp] theorem State.raise_freeIdx (s : State) : s.raiseMalformedFrame.freeIdx = s.freeIdx := rfl

@[simp] theorem State.idle_sst (s : State) : s.idle.sst = s.sst := rfl
@[simp] theorem State.idle_inputs (s : State) : s.idle.inputs = s.inputs := rfl
@[simp] theorem State.idle_rsp (s : State) : s.idle.rsp = .idle := rfl
@[simp] theorem State.idle_dbg (s : State) : s.idle.dbg = s.dbg := rfl
@[simp] theorem State.idle_freeIdx (s : State) : s.idle.freeIdx = s.freeIdx := rfl

@[simp] theorem State.beginCycle_sst (s : State) (c : Cycle) (cs : List Cycle) : (s.beginCycle c cs).sst = s.sst := rfl
@[simp] theorem State.beginCycle_inputs (s : State) (c : Cycle) (cs : List Cycle) : (s.beginCycle c cs).inputs = cs := rfl
@[simp] theorem State.beginCycle_rsp (s : State) (c : Cycle) (cs : List Cycle) : (s.beginCycle c cs).rsp = s.rsp := rfl
@[simp] theorem State.beginCycle_dbg (s : State) (c : Cycle) (cs : List Cycle) :
    (s.beginCycle c cs).dbg = some (c.dbgStation, s.entry c.dbgStation) := rfl
@[simp] theorem State.beginCycle_freeIdx (s : State) (c : Cycle) (cs : List Cycle) :
    (s.beginCycle c cs).freeIdx = s.freeIdx + 1 := rfl

@[simp] theorem State.resetCycle_sst (s : State) (v : Bool) : (s.resetCycle v).sst = [] := rfl
@[simp] theorem State.resetCycle_inputs (s : State) (v : Bool) : (s.resetCycle v).inputs = s.inputs := rfl
@[simp] theorem State.resetCycle_rsp (s : State) (v : Bool) :
    (s.resetCycle v).rsp = if v then .unspecified else .idle := rfl
@[simp] theorem State.resetCycle_dbg (s : State) (v : Bool) : (s.resetCycle v).dbg = s.dbg := rfl
@[simp] theorem State.resetCycle_freeIdx (s : State) (v : Bool) : (s.resetCycle v).freeIdx = s.freeIdx := rfl

@[simp] theorem State.undriven_sst (s : State) : s.undriven.sst = s.sst := rfl
@[simp] theorem State.undriven_inputs (s : State) : s.undriven.inputs = s.inputs := rfl
@[simp] theorem State.undriven_rsp (s : State) : s.undriven.rsp = .idle := rfl
@[simp] theorem State.undriven_dbg (s : State) : s.undriven.dbg = none := rfl
@[simp] theorem State.undriven_freeIdx (s : State) : s.undriven.freeIdx = s.freeIdx + 1 := rfl

@[simp] theorem State.present_sst (s : State) (c : Cycle) : (s.present c).sst = s.sst := rfl
@[simp] theorem State.present_inputs (s : State) (c : Cycle) : (s.present c).inputs = c :: s.inputs := rfl
@[simp] theorem State.present_rsp (s : State) (c : Cycle) : (s.present c).rsp = s.rsp := rfl
@[simp] theorem State.present_dbg (s : State) (c : Cycle) : (s.present c).dbg = s.dbg := rfl
@[simp] theorem State.present_freeIdx (s : State) (c : Cycle) : (s.present c).freeIdx = s.freeIdx := rfl

end Sys2Proof.Machine
end

