-- ==== Sys2Proof/Laws/Codec.lean ====
section
/-! SUPPORT. The codec's lanes as arithmetic (spec/40_codec.md R99, R100) and the decoder's two outcomes. -/

namespace Sys2Proof.Machine

theorem lowByte_toNat (v : Nat) : (lowByte v).toNat = v % 256 := by
  have h : v &&& 255 = v % 2 ^ 8 := Nat.and_two_pow_sub_one_eq_mod v 8
  simp only [lowByte, BitVec.toNat_ofNat, h]
  omega

theorem highPair_toNat (v : Nat) : (highPair v).toNat = v / 256 % 4 := by
  have h : ∀ x : Nat, x &&& 3 = x % 2 ^ 2 := fun x => Nat.and_two_pow_sub_one_eq_mod x 2
  simp only [highPair, BitVec.toNat_ofNat, h, Nat.shiftRight_eq_div_pow]
  omega

/-- A high pair is one of four bytes. -/
theorem highPair_lt (v : Nat) : (highPair v).toNat < 4 := by
  rw [highPair_toNat]; omega

/-- R91: lane `i`'s byte and pair depend on the low 10 bits alone. -/
theorem lowByte_congr {v u : Nat} (h : v % 1024 = u % 1024) : lowByte v = lowByte u :=
  BitVec.eq_of_toNat_eq (by rw [lowByte_toNat, lowByte_toNat]; omega)

theorem highPair_congr {v u : Nat} (h : v % 1024 = u % 1024) : highPair v = highPair u :=
  BitVec.eq_of_toNat_eq (by rw [highPair_toNat, highPair_toNat]; omega)

/-- D7: the port of VW bits, VW at least 10, keeps a value's low 10 bits. -/
theorem valuePort_low {w : Config.Widths} (hw : Config.widthsOk w = true) (v : Nat) :
    (BitVec.ofNat w.vw v).toNat % 1024 = v % 1024 := by
  simp only [Config.widthsOk, Bool.and_eq_true, decide_eq_true_eq] at hw
  rw [BitVec.toNat_ofNat]
  exact Nat.mod_mod_of_dvd v (Nat.pow_dvd_pow 2 hw.1)

/-- D9: `req_len` of LW bits, LW at least 3, is 7 exactly for the buffers of 7 bytes. -/
theorem lenPort_eq_seven {w : Config.Widths} (hw : Config.widthsOk w = true) (buf : Buffer) :
    lenPort buf w = 7 ↔ buf.length = 7 := by
  simp only [Config.widthsOk, Bool.and_eq_true, decide_eq_true_eq] at hw
  obtain ⟨k, hk⟩ : ∃ k, 2 ^ w.lw = 8 * k :=
    ⟨2 ^ (w.lw - 3), by rw [show (8 : Nat) = 2 ^ 3 from rfl, ← Nat.pow_add]; congr 1; omega⟩
  have hpos := Nat.two_pow_pos w.lw
  have hlt : 7 < 2 ^ w.lw := by omega
  have h7 : (7 : BitVec w.lw).toNat = 7 := Nat.mod_eq_of_lt hlt
  rw [← BitVec.toNat_inj, h7]
  unfold lenPort
  split <;> rw [BitVec.toNat_ofNat, Nat.mod_eq_of_lt (by omega)]
  omega

theorem packPairs_toNat : ∀ a < 4, ∀ b < 4, ∀ c < 4, ∀ d < 4,
    ((BitVec.ofNat 8 a <<< 6) ||| (BitVec.ofNat 8 b <<< 4) ||| (BitVec.ofNat 8 c <<< 2) ||| (BitVec.ofNat 8 d <<< 0)).toNat
      = a * 64 + b * 16 + c * 4 + d := by
  decide

theorem packHigh_toNat (v0 v1 v2 v3 : Nat) :
    (packHigh v0 v1 v2 v3).toNat = v0 / 256 % 4 * 64 + v1 / 256 % 4 * 16 + v2 / 256 % 4 * 4 + v3 / 256 % 4 := by
  have h := packPairs_toNat _ (highPair_lt v0) _ (highPair_lt v1) _ (highPair_lt v2) _ (highPair_lt v3)
  simp only [BitVec.ofNat_toNat, BitVec.setWidth_eq] at h
  rw [← highPair_toNat v0, ← highPair_toNat v1, ← highPair_toNat v2, ← highPair_toNat v3]
  exact h

/-- R91: the frame depends on the low 10 bits of each value alone. -/
theorem encodeFrame_congr (sid : StationId) (seq : Seq) {v0 v1 v2 v3 u0 u1 u2 u3 : Nat}
    (h0 : v0 % 1024 = u0 % 1024) (h1 : v1 % 1024 = u1 % 1024) (h2 : v2 % 1024 = u2 % 1024) (h3 : v3 % 1024 = u3 % 1024) :
    encodeFrame sid seq v0 v1 v2 v3 = encodeFrame sid seq u0 u1 u2 u3 := by
  simp only [encodeFrame, packHigh, lowByte_congr h0, lowByte_congr h1, lowByte_congr h2, lowByte_congr h3,
    highPair_congr h0, highPair_congr h1, highPair_congr h2, highPair_congr h3]

theorem laneValue_toNat (low hi : Byte) (i : Nat) :
    (laneValue low hi i).toNat = hi.toNat / 2 ^ slotShift i % 4 * 256 + low.toNat := by
  have hl := low.isLt
  have h3 : ∀ x : Nat, x &&& 3 = x % 2 ^ 2 := fun x => Nat.and_two_pow_sub_one_eq_mod x 2
  have hs : ∀ x : Nat, x % 4 < 4 := fun x => Nat.mod_lt x (by decide)
  have hor : ∀ p < 4, (p <<< 8) ||| low.toNat = p * 256 + low.toNat := by
    intro p _
    rw [Nat.shiftLeft_eq, Nat.mul_comm, ← Nat.two_pow_add_eq_or_of_lt hl]
  simp only [laneValue, BitVec.toNat_or, BitVec.toNat_shiftLeft, BitVec.toNat_setWidth, BitVec.toNat_and,
    BitVec.toNat_ushiftRight, BitVec.toNat_ofNat, Nat.shiftRight_eq_div_pow]
  rw [show (3 % 2 ^ 8 : Nat) = 3 from rfl, h3]
  have hlt := hs (hi.toNat / 2 ^ slotShift i)
  rw [show (2 ^ 2 : Nat) = 4 from rfl]
  generalize hi.toNat / 2 ^ slotShift i % 4 = p at hlt ⊢
  rw [Nat.mod_eq_of_lt (show p < 2 ^ 10 by omega), Nat.mod_eq_of_lt (show low.toNat < 2 ^ 10 by omega),
    Nat.mod_eq_of_lt (show p <<< 8 < 2 ^ 10 by rw [Nat.shiftLeft_eq]; omega), hor p hlt]

/-- Concatenation `{a, b}` as R11 defines it: `a * 2^width(b) + b`. -/
theorem append_toNat {w v : Nat} (x : BitVec w) (y : BitVec v) : (x ++ y).toNat = x.toNat * 2 ^ v + y.toNat := by
  rw [BitVec.toNat_append, Nat.shiftLeft_eq, Nat.mul_comm, ← Nat.two_pow_add_eq_or_of_lt y.isLt]

/-- A slice `v[hi:lo]` as R11 defines it. -/
theorem slice_toNat {w : Nat} (x : BitVec w) (lo len : Nat) : (x.extractLsb' lo len).toNat = x.toNat / 2 ^ lo % 2 ^ len := by
  rw [BitVec.extractLsb'_toNat, Nat.shiftRight_eq_div_pow]

/-- One bit of a concatenation. -/
theorem append_getLsbD {w v : Nat} (x : BitVec w) (y : BitVec v) (i : Nat) :
    (x ++ y).getLsbD i = if i < v then y.getLsbD i else x.getLsbD (i - v) := by
  rw [BitVec.getLsbD_append]

/-- The low part of a concatenation. -/
theorem append_slice_low {a b : Nat} (x : BitVec a) (y : BitVec b) : (x ++ y).extractLsb' 0 b = y := by
  apply BitVec.eq_of_getLsbD_eq
  intro i hi
  rw [BitVec.getLsbD_extractLsb', append_getLsbD, Nat.zero_add]
  simp [hi]

/-- A slice of a concatenation that begins in the upper part. -/
theorem append_slice_high {a b : Nat} (x : BitVec a) (y : BitVec b) (k n : Nat) :
    (x ++ y).extractLsb' (b + k) n = x.extractLsb' k n := by
  apply BitVec.eq_of_getLsbD_eq
  intro i hi
  rw [BitVec.getLsbD_extractLsb', BitVec.getLsbD_extractLsb', append_getLsbD, if_neg (by omega),
    show b + k + i - b = k + i by omega]

/-- R45: the bus as one number, byte 0 the most significant. -/
theorem busOfBytes_toNat (b0 b1 b2 b3 b4 b5 b6 : Byte) :
    (busOfBytes b0 b1 b2 b3 b4 b5 b6).toNat =
      ((((((b0.toNat * 256 + b1.toNat) * 256 + b2.toNat) * 256 + b3.toNat) * 256 + b4.toNat) * 256 + b5.toNat) * 256
        + b6.toNat) := by
  simp only [busOfBytes, append_toNat, Nat.reducePow]

/-- R61: the pattern as one number. -/
theorem busOfFields_toNat (sid : StationId) (seq : Seq) (v0 v1 v2 v3 : Value) :
    (busOfFields sid seq v0 v1 v2 v3).toNat =
      (((((sid.toNat * 256 + seq.toNat) * 256 + v0.toNat % 256) * 256 + v1.toNat % 256) * 256 + v2.toNat % 256) * 256
        + v3.toNat % 256) * 256
        + (v0.toNat / 256 % 4 * 64 + v1.toNat / 256 % 4 * 16 + v2.toNat / 256 % 4 * 4 + v3.toNat / 256 % 4) := by
  simp only [busOfFields, append_toNat, slice_toNat, Nat.reducePow, Nat.div_one]
  omega

/-- A buffer of length 7 is seven bytes. -/
theorem buffer_of_length_seven {buf : Buffer} (h : buf.length = 7) :
    ∃ b0 b1 b2 b3 b4 b5 b6, buf = [b0, b1, b2, b3, b4, b5, b6] := by
  match buf, h with
  | [b0, b1, b2, b3, b4, b5, b6], _ => exact ⟨b0, b1, b2, b3, b4, b5, b6, rfl⟩

@[simp] theorem decodeBuffer_seven (b0 b1 b2 b3 b4 b5 b6 : Byte) :
    decodeBuffer [b0, b1, b2, b3, b4, b5, b6] = .ok (decodeFrame #v[b0, b1, b2, b3, b4, b5, b6]) := rfl

theorem decodeBuffer_malformed {buf : Buffer} (h : buf.length ≠ 7) : decodeBuffer buf = .error .malformedFrame := by
  simp [decodeBuffer, Config.frameBytes, h]

end Sys2Proof.Machine
end

