-- ==== Sys2Proof/Laws/Table.lean ====
section
/-! SUPPORT. The laws of the station table: read after write, and that every operation keeps the canonical form
(spec/20_memory.md R57). -/

namespace Sys2Proof.Machine

theorem Memory.read_write_same (m : Memory) (a : Nat) (b : Byte) : Memory.read (Memory.write m a b) a = some b := by
  induction m with
  | nil => simp [Memory.write, Memory.read]
  | cons p m ih =>
    obtain ⟨k, v⟩ := p
    unfold Memory.write
    split
    · simp [Memory.read]
    · split
      · simp [Memory.read]
      · simp only [Memory.read, ih]
        rw [if_neg (by omega)]

theorem Memory.read_write_other (m : Memory) (a c : Nat) (b : Byte) (h : c ≠ a) :
    Memory.read (Memory.write m a b) c = Memory.read m c := by
  induction m with
  | nil => simp [Memory.write, Memory.read, h.symm]
  | cons p m ih =>
    obtain ⟨k, v⟩ := p
    unfold Memory.write
    split
    · simp [Memory.read, h.symm]
    · split
      · next hk => simp [Memory.read, h.symm, show k ≠ c from hk ▸ h.symm]
      · simp only [Memory.read, ih]

theorem Memory.write_risesFrom (m : Memory) (lo a : Nat) (b : Byte) (ha : a < Config.nStation) (hlo : lo ≤ a)
    (h : Memory.risesFrom lo m = true) : Memory.risesFrom lo (Memory.write m a b) = true := by
  induction m generalizing lo with
  | nil => simp [Memory.write, Memory.risesFrom, hlo, ha]
  | cons p m ih =>
    obtain ⟨k, v⟩ := p
    simp only [Memory.risesFrom, Bool.and_eq_true, decide_eq_true_eq] at h
    obtain ⟨⟨h1, h2⟩, h3⟩ := h
    unfold Memory.write
    split
    · next hk => simp [Memory.risesFrom, hlo, ha, h2, h3, Nat.succ_le_of_lt hk]
    · split
      · next hk => subst hk; simp [Memory.risesFrom, hlo, ha, h3]
      · simp [Memory.risesFrom, h1, h2, ih (k + 1) (by omega) h3]

/-- A write keeps the canonical form. -/
theorem Memory.write_wf (m : Memory) (a : Nat) (b : Byte) (ha : a < Config.nStation) (h : Memory.wf m = true) :
    Memory.wf (Memory.write m a b) = true :=
  Memory.write_risesFrom m 0 a b ha (Nat.zero_le _) h

theorem sstWrite_wf (m : Memory) (x : StationId) (n : Seq) (h : Memory.wf m = true) :
    Memory.wf (sstWrite m x n) = true :=
  Memory.write_wf m x.toNat n x.isLt h

theorem Memory.read_none_below (m : Memory) (lo a : Nat) (ha : a < lo) (h : Memory.risesFrom lo m = true) :
    Memory.read m a = none := by
  induction m generalizing lo with
  | nil => rfl
  | cons p m ih =>
    obtain ⟨k, v⟩ := p
    simp only [Memory.risesFrom, Bool.and_eq_true, decide_eq_true_eq] at h
    simp only [Memory.read]
    rw [if_neg (by omega), ih (k + 1) (by omega) h.2]

/-- The table after reset is in canonical form. -/
theorem State.reset_table_wf : Memory.wf State.reset.sst = true := rfl

/-- Every key listed in a canonical table reads as its value. -/
theorem Memory.read_none_from (m : Memory) (lo : Nat) (h : Memory.risesFrom lo m = true) (a : Nat)
    (ha : Config.nStation ≤ a) : Memory.read m a = none := by
  induction m generalizing lo with
  | nil => rfl
  | cons p m ih =>
    obtain ⟨k, v⟩ := p
    simp only [Memory.risesFrom, Bool.and_eq_true, decide_eq_true_eq] at h
    simp only [Memory.read]
    rw [if_neg (by omega), ih (k + 1) h.2]

/-- The address of an entry is its station id, unmodified (R57), so two stations never share one. -/
theorem station_addr_ne {x y : StationId} (h : y ≠ x) : y.toNat ≠ x.toNat := fun e => h (BitVec.eq_of_toNat_eq e)

end Sys2Proof.Machine
end

