-- ==== Sys2Proof/Laws/Ring.lean ====
section
/-! SUPPORT. The ring's arithmetic and what one classification can do (spec/41_sequence_validator.md R120, R122). -/

namespace Sys2Proof.Machine

/-- The forward distance over the naturals. -/
theorem forwardDistance_eq (n last : Seq) : forwardDistance n last = (n.toNat + 255 - last.toNat) % 255 := by
  have hn := n.isLt
  have hl := last.isLt
  simp only [forwardDistance, Config.ring]
  omega

theorem forwardDistance_le (n last : Seq) : forwardDistance n last ≤ 254 := by
  rw [forwardDistance_eq]; omega

theorem forwardDistance_self (n : Seq) : forwardDistance n n = 0 := by
  rw [forwardDistance_eq]; omega

/-- The distance joins `last` to the number on the ring. -/
theorem forwardDistance_travel (n last : Seq) : (last.toNat + forwardDistance n last) % 255 = n.toNat % 255 := by
  have hn := n.isLt
  have hl := last.isLt
  rw [forwardDistance_eq]; omega

@[simp] theorem classify_eq (m : Memory) (x : StationId) (n : Seq) : classify m x n = ringClassify m x n := rfl

theorem ringClassify_first {m : Memory} {x : StationId} (n : Seq) (h : sstRead m x = none) :
    ringClassify m x n = (sstWrite m x n, .accept) := by
  simp [ringClassify, h]

theorem ringClassify_duplicate {m : Memory} {x : StationId} {n last : Seq} (h : sstRead m x = some last)
    (hd : forwardDistance n last = 0) : ringClassify m x n = (m, .rejectDuplicate) := by
  simp [ringClassify, h, hd]

theorem ringClassify_ahead {m : Memory} {x : StationId} {n last : Seq} (h : sstRead m x = some last)
    (h1 : 1 ≤ forwardDistance n last) (h2 : forwardDistance n last ≤ 127) :
    ringClassify m x n = (sstWrite m x n, .accept) := by
  have h0 : forwardDistance n last ≠ 0 := by omega
  simp [ringClassify, h, h0, Config.half, h2]

theorem ringClassify_stale {m : Memory} {x : StationId} {n last : Seq} (h : sstRead m x = some last)
    (h1 : 128 ≤ forwardDistance n last) : ringClassify m x n = (m, .rejectStale) := by
  have h0 : forwardDistance n last ≠ 0 := by omega
  have h2 : ¬ forwardDistance n last ≤ 127 := by omega
  simp [ringClassify, h, h0, Config.half, h2]

/-- Everything a classification can do: one of four cases, by the entry and the distance. -/
theorem ringClassify_cases (m : Memory) (x : StationId) (n : Seq) :
    (sstRead m x = none ∧ ringClassify m x n = (sstWrite m x n, .accept)) ∨
    (∃ last, sstRead m x = some last ∧ forwardDistance n last = 0 ∧ ringClassify m x n = (m, .rejectDuplicate)) ∨
    (∃ last, sstRead m x = some last ∧ 1 ≤ forwardDistance n last ∧ forwardDistance n last ≤ 127 ∧
      ringClassify m x n = (sstWrite m x n, .accept)) ∨
    (∃ last, sstRead m x = some last ∧ 128 ≤ forwardDistance n last ∧ ringClassify m x n = (m, .rejectStale)) := by
  rcases h : sstRead m x with _ | last
  · exact .inl ⟨rfl, ringClassify_first n h⟩
  · by_cases h0 : forwardDistance n last = 0
    · exact .inr (.inl ⟨last, rfl, h0, ringClassify_duplicate h h0⟩)
    · by_cases h2 : forwardDistance n last ≤ 127
      · exact .inr (.inr (.inl ⟨last, rfl, by omega, h2, ringClassify_ahead h (by omega) h2⟩))
      · exact .inr (.inr (.inr ⟨last, rfl, by omega, ringClassify_stale h (by omega)⟩))

/-- A classification writes its own entry or nothing (R127). -/
theorem ringClassify_table (m : Memory) (x : StationId) (n : Seq) :
    (ringClassify m x n).1 = sstWrite m x n ∧ (ringClassify m x n).2 = .accept ∨
    (ringClassify m x n).1 = m ∧ (ringClassify m x n).2 ≠ .accept := by
  rcases ringClassify_cases m x n with ⟨_, h⟩ | ⟨_, _, _, h⟩ | ⟨_, _, _, _, h⟩ | ⟨_, _, _, h⟩ <;> simp [h]

theorem ringClassify_wf (m : Memory) (x : StationId) (n : Seq) (h : Memory.wf m = true) :
    Memory.wf (ringClassify m x n).1 = true := by
  rcases ringClassify_table m x n with ⟨e, _⟩ | ⟨e, _⟩ <;> rw [e]
  · exact sstWrite_wf m x n h
  · exact h

/-- A classification leaves every other key as it is. -/
theorem ringClassify_read_other (m : Memory) (x : StationId) (n : Seq) (a : Nat) (h : a ≠ x.toNat) :
    Memory.read (ringClassify m x n).1 a = Memory.read m a := by
  rcases ringClassify_table m x n with ⟨e, _⟩ | ⟨e, _⟩ <;> rw [e]
  exact Memory.read_write_other m x.toNat a n h

end Sys2Proof.Machine
end

