-- ==== Sys2Proof/Laws/Exec.lean ====
section
/-! SUPPORT. What each instruction answers, and what a step does, once each. -/

namespace Sys2Proof.Machine

theorem exec_encode (sid : StationId) (seq : Seq) (v0 v1 v2 v3 : Nat) (s : State) :
    exec (.encode sid seq v0 v1 v2 v3) s = .next (s.respond (.frame (encodeFrame sid seq v0 v1 v2 v3))) := rfl

theorem exec_decode_seven (b0 b1 b2 b3 b4 b5 b6 : Byte) (s : State) :
    exec (.decode [b0, b1, b2, b3, b4, b5, b6]) s =
      .next (s.respond (.packet (decodeFrame #v[b0, b1, b2, b3, b4, b5, b6]))) := rfl

theorem exec_decode_malformed {buf : Buffer} (h : buf.length ≠ 7) (s : State) :
    exec (.decode buf) s = .next s.raiseMalformedFrame := by
  simp [exec, execDecode, decodeBuffer_malformed h]

theorem exec_classify (x : StationId) (n : Seq) (s : State) :
    exec (.classify x n) s =
      .next (State.respond { s with sst := (ringClassify s.sst x n).1 } (.decision (ringClassify s.sst x n).2)) := rfl

theorem exec_receive_seven (b0 b1 b2 b3 b4 b5 b6 : Byte) (s : State) :
    exec (.receive [b0, b1, b2, b3, b4, b5, b6]) s =
      .next (State.respond { s with sst := (ringClassify s.sst b0 b1).1 }
        (.packetDecision (decodeFrame #v[b0, b1, b2, b3, b4, b5, b6]) (ringClassify s.sst b0 b1).2)) := rfl

theorem exec_receive_malformed {buf : Buffer} (h : buf.length ≠ 7) (s : State) :
    exec (.receive buf) s = .next s.raiseMalformedFrame := by
  simp [exec, execReceive, decodeBuffer_malformed h]

theorem exec_wireframe (sid : StationId) (seq : Seq) (v0 v1 v2 v3 : Value) (s : State) :
    exec (.wireframe sid seq v0 v1 v2 v3) s = .next s.idle := rfl

/-- A step with nothing to drive. -/
theorem step_nil {s : State} (h : s.inputs = []) : step s = .next s.undriven := by simp [step, h]

/-- A step with reset. -/
theorem step_reset {s : State} {c : Cycle} {rest : List Cycle} (h : s.inputs = c :: rest) (hr : c.rst = true) :
    step s = .next ((s.beginCycle c rest).resetCycle c.req.valid) := by simp [step, h, hr]

/-- A step that runs an instruction. -/
theorem step_exec {s : State} {c : Cycle} {rest : List Cycle} {i : Instr} (h : s.inputs = c :: rest) (hr : c.rst = false)
    (hd : decode c.req = .ok i) : step s = exec i (s.beginCycle c rest) := by simp [step, h, hr, hd]

/-- A step with no operation requested and no frame on the bus. -/
theorem step_idle {s : State} {c : Cycle} {rest : List Cycle} (h : s.inputs = c :: rest) (hr : c.rst = false)
    (hd : decode c.req = .error .noOperation) : step s = .next (s.beginCycle c rest).idle := by simp [step, h, hr, hd]

end Sys2Proof.Machine
end

