-- ==== Sys2Proof/Laws/PerInstr.lean ====
section
/-! SUPPORT. Facts about each instruction as syntax, one lemma per constructor. -/

/-- R71: the code of `req_op` that selects the operation; WIREFRAME, which is no operation, has none (R77). -/
def Sys2Proof.Laws.OpCode.code : Sys2Proof.Instr → Option (BitVec 2)
  | .encode _ _ _ _ _ _ => some 0b00#2
  | .decode _ => some 0b01#2
  | .classify _ _ => some 0b10#2
  | .receive _ => some 0b11#2
  | .wireframe _ _ _ _ _ _ => none

/-- The request ports of an instruction present a request exactly when it is an operation, with its code. -/
def Sys2Proof.Laws.OpCode.Statement (i : Sys2Proof.Instr) : Prop :=
  (Sys2Proof.encode i).valid = (Sys2Proof.Laws.OpCode.code i).isSome ∧
    ∀ c, Sys2Proof.Laws.OpCode.code i = some c → (Sys2Proof.encode i).op = c

theorem Sys2Proof.Laws.OpCode.encode (sid : Sys2Proof.StationId) (seq : Sys2Proof.Seq)
    (v0 v1 v2 v3 : Sys2Proof.ValueIn) : Sys2Proof.Laws.OpCode.Statement (.encode sid seq v0 v1 v2 v3) :=
  ⟨rfl, fun _ h => Option.some.inj h⟩

theorem Sys2Proof.Laws.OpCode.decode (buf : Sys2Proof.Buffer) : Sys2Proof.Laws.OpCode.Statement (.decode buf) :=
  ⟨rfl, fun _ h => Option.some.inj h⟩

theorem Sys2Proof.Laws.OpCode.classify (s : Sys2Proof.StationId) (n : Sys2Proof.Seq) :
    Sys2Proof.Laws.OpCode.Statement (.classify s n) :=
  ⟨rfl, fun _ h => Option.some.inj h⟩

theorem Sys2Proof.Laws.OpCode.receive (buf : Sys2Proof.Buffer) : Sys2Proof.Laws.OpCode.Statement (.receive buf) :=
  ⟨rfl, fun _ h => Option.some.inj h⟩

theorem Sys2Proof.Laws.OpCode.wireframe (sid : Sys2Proof.StationId) (seq : Sys2Proof.Seq)
    (v0 v1 v2 v3 : Sys2Proof.Value) : Sys2Proof.Laws.OpCode.Statement (.wireframe sid seq v0 v1 v2 v3) :=
  ⟨rfl, fun _ h => nomatch h⟩
end

