-- ==== Sys2Proof/Laws/Steps.lean ====
section
/-! SUPPORT. Everything an instruction can do, and everything a step can do: one inversion lemma each. -/

namespace Sys2Proof.Machine

/-- A buffer is seven bytes or has another length. -/
theorem buffer_cases (buf : Buffer) :
    (∃ b0 b1 b2 b3 b4 b5 b6, buf = [b0, b1, b2, b3, b4, b5, b6]) ∨ buf.length ≠ 7 := by
  by_cases h : buf.length = 7
  · exact .inl (buffer_of_length_seven h)
  · exact .inr h

theorem bufferKey_malformed {buf : Buffer} (h : buf.length ≠ 7) : bufferKey buf = none := by
  unfold bufferKey
  split
  · simp at h
  · rfl

/-- An instruction answers a next state in which only the response is new, or it classifies the number it concerns and
answers the decision. -/
theorem exec_cases (i : Instr) (s : State) :
    (concerns i = none ∧ ∃ r, exec i s = .next { s with rsp := r }) ∨
    (∃ x n, concerns i = some (x, n) ∧ ∃ f : Decision → Rsp, (∀ d, (f d).decision? = some d) ∧
      exec i s = .next { s with sst := (ringClassify s.sst x n).1, rsp := f (ringClassify s.sst x n).2 }) := by
  cases i with
  | encode => exact .inl ⟨rfl, _, rfl⟩
  | wireframe => exact .inl ⟨rfl, _, rfl⟩
  | decode buf =>
    rcases buffer_cases buf with ⟨b0, b1, b2, b3, b4, b5, b6, rfl⟩ | h
    · exact .inl ⟨rfl, _, rfl⟩
    · exact .inl ⟨rfl, _, exec_decode_malformed h s⟩
  | classify x n => exact .inr ⟨x, n, rfl, fun d => .response (.decision d), fun _ => rfl, rfl⟩
  | receive buf =>
    rcases buffer_cases buf with ⟨b0, b1, b2, b3, b4, b5, b6, rfl⟩ | h
    · exact .inr ⟨b0, b1, rfl, fun d => .response (.packetDecision _ d), fun _ => rfl, rfl⟩
    · exact .inl ⟨bufferKey_malformed h, _, exec_receive_malformed h s⟩

/-- A step has nothing to drive, or resets, or leaves the table alone, or classifies the number its cycle concerns. -/
theorem step_cases (s : State) :
    (s.inputs = [] ∧ step s = .next s.undriven) ∨
    (∃ c rest, s.inputs = c :: rest ∧
      ((c.rst = true ∧ c.concerns = none ∧ step s = .next ((s.beginCycle c rest).resetCycle c.req.valid)) ∨
       (c.rst = false ∧ c.concerns = none ∧ ∃ r, step s = .next { s.beginCycle c rest with rsp := r }) ∨
       (c.rst = false ∧ ∃ x n, c.concerns = some (x, n) ∧ ∃ f : Decision → Rsp, (∀ d, (f d).decision? = some d) ∧
          step s = .next { s.beginCycle c rest with
            sst := (ringClassify s.sst x n).1, rsp := f (ringClassify s.sst x n).2 }))) := by
  rcases h : s.inputs with _ | ⟨c, rest⟩
  · exact .inl ⟨rfl, step_nil h⟩
  · refine .inr ⟨c, rest, rfl, ?_⟩
    by_cases hr : c.rst = true
    · exact .inl ⟨hr, by simp [Cycle.concerns, hr], step_reset h hr⟩
    · have hr : c.rst = false := by simpa using hr
      right
      rcases hd : decode c.req with ⟨⟨⟩⟩ | i
      · exact .inl ⟨hr, by simp [Cycle.concerns, hr, hd], _, step_idle h hr hd⟩
      · have hc : c.concerns = concerns i := by simp [Cycle.concerns, hr, hd]
        rw [step_exec h hr hd, hc]
        rcases exec_cases i (s.beginCycle c rest) with ⟨k, r, e⟩ | ⟨x, n, k, f, hf, e⟩
        · exact .inl ⟨hr, k, r, e⟩
        · exact .inr ⟨hr, x, n, k, f, hf, e⟩

end Sys2Proof.Machine
end

