-- ==== Sys2Proof/Tests/Slice0.lean ====
section
/-! SUPPORT. Tests: the checks of WellFormed, words written out from the spec's encodings, the spec's own test vectors
(spec/95_test_vectors.md, named in each comment), and for each statement with hypotheses a witness that meets them. -/

namespace Sys2Proof.Tests

open Sys2Proof.Machine

/-! ### WellFormed refuses -/

theorem test_widthsOk_refuses_vw_9 : Config.widthsOk ⟨9, 16⟩ = false := by decide
theorem test_widthsOk_refuses_lw_2 : Config.widthsOk ⟨16, 2⟩ = false := by decide
theorem test_widthsOk_takes_smallest : Config.widthsOk ⟨10, 3⟩ = true := by decide
theorem test_wf_refuses_widths : Instr.wf (.classify 1 1) ⟨9, 16⟩ = false := by decide
theorem test_wf_refuses_encode_65536 : Instr.wf (.encode 1 1 0 0 0 65536) = false := by decide
/-- The same value is refused at VW = 10 and taken at VW = 16. -/
theorem test_wf_of_value_1024 :
    Instr.wf (.encode 1 1 1024 0 0 0) ⟨10, 16⟩ = false ∧ Instr.wf (.encode 1 1 1024 0 0 0) = true := by decide
theorem test_wf_refuses_decode_65536 : Instr.wf (.decode (List.replicate 65536 0)) = false := by
  simp only [Instr.wf, bufferFits, List.length_replicate]; decide
/-- At LW = 3 a buffer of 8 bytes needs saturation, one of 7 does not. -/
theorem test_wf_at_lw_3 :
    Instr.wf (.receive (List.replicate 8 0)) ⟨10, 3⟩ = false ∧ Instr.wf (.receive (List.replicate 7 0)) ⟨10, 3⟩ = true := by
  decide

/-! ### Words, written out from R70, R71 and R61 -/

/-- P1 line 1: op=0 station=0x01 seq=0x01 val=0x0200,0x0064,0x03FF,0x0000. -/
theorem test_word_encode :
    decodeTableWord 160 0x0000_03FF_0064_0200_01_01_00 = some (.encode 1 1 512 100 1023 0) := by decide

/-- P3 line 2: op=1 len=7 frame=0x2A0A05FFFFFF3F. -/
theorem test_word_decode :
    decodeTableWord 160 0x2A0A05FFFFFF3F_0007_0000000000000000_00_00_01 =
      some (.decode [0x2A, 0x0A, 0x05, 0xFF, 0xFF, 0xFF, 0x3F]) := by decide

/-- P3 line 4: op=2 station=0x2A seq=0x89. -/
theorem test_word_classify : decodeTableWord 160 0x89_2A_02 = some (.classify 42 137) := by decide

/-- P2 line 3: op=3 len=6 frame=0x02040102030400. -/
theorem test_word_receive :
    decodeTableWord 160 0x02040102030400_0006_0000000000000000_00_00_03 =
      some (.receive [0x02, 0x04, 0x01, 0x02, 0x03, 0x04]) := by decide

/-- E13, bit by bit in the order of the pattern of R61: s, n, a, b, c, d, then e, f, g, h. -/
theorem test_word_wireframe :
    decodeTableWord 56 0b00010010_00110100_01010110_01111000_10011010_10111100_10_01_00_11 =
      some (.wireframe 18 52 598 376 154 956) := by decide

/-- The other 2-bit codes of R71, and a length past the bus (P2 line 6: len=8). -/
theorem test_word_receive_length_8 :
    decodeTableWord 160 0x01010000000000_0008_0000000000000000_00_00_03 =
      some (.receive [0x01, 0x01, 0, 0, 0, 0, 0, 0]) := by decide

/-- R70 at VW = 10 and LW = 3: `req_val0` at bits 33..24, `req_val1` at 43..34, `req_len` at 66..64, `req_frame` at 122..67. -/
theorem test_word_at_smallest_widths :
    portWord (encode (.encode 1 2 0x3FF 1 0 0)) ⟨10, 3⟩ = BitVec.ofNat 123 (1 * 2 ^ 34 + 0x3FF * 2 ^ 24 + 0x02_01_00) ∧
      portWord (encode (.receive [0, 0, 0, 0, 0, 0, 1])) ⟨10, 3⟩ = BitVec.ofNat 123 (1 * 2 ^ 67 + 7 * 2 ^ 64 + 3) := by
  decide

/-- D9: a length that LW bits cannot hold is not shown as 7, at LW = 3 too. -/
theorem test_length_saturates : lenPort (List.replicate 15 0) ⟨10, 3⟩ = 6#3 := by decide

/-- R71: `req_valid = 0` with no frame on the bus is rejected by name. -/
theorem test_idle_has_no_instruction : (decode Request.none).toOption = none := by decide

/-! ### The spec's vectors, one step each -/

/-- The state after an instruction. -/
def after (i : Instr) (s : State) : Option State :=
  match exec i s with
  | .next t => some t
  | _ => none

/-- The state after one cycle. -/
def afterStep (s : State) : Option State :=
  match step s with
  | .next t => some t
  | _ => none

/-- A state whose table lists one station. -/
def holding (x last : Byte) : State := { State.reset with sst := [(x.toNat, last)] }

/-- E3. -/
theorem test_encode_E3 : (after (.encode 1 1 0x3FF 0x000 0x155 0x2AA) .reset).map (·.rsp) =
    some (.response (.frame #v[0x01, 0x01, 0xFF, 0x00, 0x55, 0xAA, 0xC6])) := by decide
/-- E12: bits 10 to 15 dropped, sequence byte 255 emitted unchanged. -/
theorem test_encode_E12 : (after (.encode 9 255 0x0400 0x0800 0x1234 0xFC00) .reset).map (·.rsp) =
    some (.response (.frame #v[0x09, 0xFF, 0x00, 0x00, 0x34, 0x00, 0x08])) := by decide

/-- F3. -/
theorem test_decode_F3 : (after (.decode [0x01, 0x02, 0x03, 0x04, 0x05, 0x06, 0x1B]) .reset).map (·.rsp) =
    some (.response (.packet ⟨1, 2, #v[3, 260, 517, 774]⟩)) := by decide
/-- F8: a long buffer is not cut to its first 7 bytes. -/
theorem test_decode_F8 : (after (.decode [1, 2, 3, 4, 5, 6, 7, 8]) .reset).map (·.rsp) =
    some (.response (.error .malformedFrame)) := by decide

/-- S8 step 2: 0 is 1 step ahead of 254. -/
theorem test_classify_wraps : (after (.classify 2 0) (holding 2 254)).map (fun t => (t.rsp, t.sst)) =
    some (.response (.decision .accept), [(2, 0)]) := by decide
/-- Table 2.3: last 100, n 228 has fd 128. -/
theorem test_classify_128_is_stale : (after (.classify 2 228) (holding 2 100)).map (fun t => (t.rsp, t.sst)) =
    some (.response (.decision .rejectStale), [(2, 100)]) := by decide

/-- V6: the table lists two stations in order, and 255 is stored raw. -/
theorem test_receive_V6 : (after (.receive [0x02, 0xFF, 0, 0, 0, 0, 0]) (holding 1 1)).map (fun t => (t.rsp, t.sst)) =
    some (.response (.packetDecision ⟨2, 255, #v[0, 0, 0, 0]⟩ .accept), [(1, 1), (2, 255)]) := by decide
/-- V7: the packet is still returned with `RejectStale`. -/
theorem test_receive_V7 : (after (.receive [0x01, 0x01, 0, 0, 0, 0, 0]) (holding 1 3)).map (fun t => (t.rsp, t.sst)) =
    some (.response (.packetDecision ⟨1, 1, #v[0, 0, 0, 0]⟩ .rejectStale), [(1, 3)]) := by decide

/-- A presented table word runs as the first instruction after reset (R203: any operation may be the first). -/
theorem test_first_step_after_reset :
    (afterStep (State.reset.withFetchWord 160 0x89_2A_02)).map (fun t => (t.rsp, t.sst)) =
      some (.response (.decision .accept), [(42, 137)]) := by decide

/-! ### Witnesses: a concrete state and operands that meet each statement's hypotheses -/

/-- Two stations held, and three cycles to drive: a CLASSIFY, a malformed RECEIVE, a RECEIVE of another station. -/
def busy : State :=
  { State.reset with
    sst := [(1, 3), (7, 254)]
    inputs := [Cycle.ofInstr (.classify 1 4) 1, Cycle.ofInstr (.receive [1, 5]) 7,
      Cycle.ofInstr (.receive [2, 9, 0, 0, 0, 0, 0]) 2] }

/-- A cycle with reset and a request. -/
def resetWithRequest : Cycle := { rst := true, req := encode (.classify 1 4), dbgStation := 1 }

theorem witness_TableStaysCanonical : ∃ s t, s.tableWf ∧ step s = .next t ∧ t.sst = [(1, 4), (7, 254)] :=
  ⟨busy, _, rfl, rfl, rfl⟩

theorem witness_RingRangeIsKept : ∃ s t, s.ringRange ∧ step s = .next t ∧ s.sst ≠ [] := by
  refine ⟨busy, _, ⟨?_, ?_⟩, rfl, by decide⟩
  · intro x n h
    simp only [State.entry, sstRead, busy, Memory.read] at h
    split at h
    · cases h; decide
    · split at h
      · cases h; decide
      · cases h
  · intro c hc
    simp only [busy, List.mem_cons, List.not_mem_nil, or_false] at hc
    rcases hc with rfl | rfl | rfl <;> intro x n h <;> cases h <;> decide

theorem witness_CanonicalTablesAreEqual : ∃ m m' : Memory, Memory.wf m = true ∧ Memory.wf m' = true ∧
    (∀ x, sstRead m x = sstRead m' x) ∧ m ≠ [] := ⟨busy.sst, busy.sst, rfl, rfl, fun _ => rfl, by decide⟩

theorem witness_TablePrimitivesReadAndWrite : (2 : StationId) ≠ 1 := by decide

theorem witness_ResetCycleClearsTable :
    (∃ (s : State) (c : Cycle) (rest : List Cycle), s.inputs = c :: rest ∧ c.rst = true ∧ c.req.valid = true) ∧
    (∃ (s : State) (c : Cycle) (rest : List Cycle), s.inputs = c :: rest ∧ c.rst = true ∧ c.req.valid = false) :=
  ⟨⟨busy.present resetWithRequest, _, _, rfl, rfl, rfl⟩,
    ⟨busy.present { resetWithRequest with req := Request.none }, _, _, rfl, rfl, rfl⟩⟩

theorem witness_TableWordOfInstructionDecodes :
    Config.widthsOk ⟨10, 3⟩ = true ∧ onPortWord ⟨10, 3⟩ (.encode 1 1 0x3FF 0 0 0) = true ∧
      onPortWord ⟨10, 3⟩ (.decode [1, 2, 3, 4, 5, 6, 7]) = true ∧ onPortWord Config.widths (.encode 1 1 0xFFFF 0 0 0) = true ∧
      onPortWord Config.widths (.classify 255 255) = true ∧ onPortWord Config.widths (.receive []) = true := by decide

/-- Two requests with the same code that differ in every port its operation does not use. -/
theorem witness_UnusedPortsAreIgnored :
    (∃ r r' : Request, r ≠ r' ∧ r.valid = true ∧ r'.valid = true ∧ r.op = r'.op ∧ r.op = 0b00#2 ∧
      r.station = r'.station ∧ r.seq = r'.seq ∧ r.val0 = r'.val0 ∧ r.val1 = r'.val1 ∧ r.val2 = r'.val2 ∧
      r.val3 = r'.val3) ∧
    (∃ r r' : Request, r ≠ r' ∧ r.valid = true ∧ r'.valid = true ∧ r.op = r'.op ∧ r.op = 0b01#2 ∧ r.buf = r'.buf) ∧
    (∃ r r' : Request, r ≠ r' ∧ r.valid = true ∧ r'.valid = true ∧ r.op = r'.op ∧ r.op = 0b11#2 ∧ r.buf = r'.buf) ∧
    (∃ r r' : Request, r ≠ r' ∧ r.valid = true ∧ r'.valid = true ∧ r.op = r'.op ∧ r.op = 0b10#2 ∧
      r.station = r'.station ∧ r.seq = r'.seq) := by
  refine ⟨⟨encode (.encode 1 2 3 4 5 6), { encode (.encode 1 2 3 4 5 6) with buf := [9] }, ?_⟩,
    ⟨encode (.decode [1]), { encode (.decode [1]) with seq := 9 }, ?_⟩,
    ⟨encode (.receive [1]), { encode (.receive [1]) with station := 9 }, ?_⟩,
    ⟨encode (.classify 1 2), { encode (.classify 1 2) with val0 := 9 }, ?_⟩⟩ <;> decide

theorem witness_StepRunsDecodedInstruction :
    ∃ (s : State) (c : Cycle) (rest : List Cycle) (i : Instr),
      s.inputs = c :: rest ∧ c.rst = false ∧ decode c.req = .ok i := ⟨busy, _, _, .classify 1 4, rfl, rfl, rfl⟩

theorem witness_IdleCycleChangesNothing :
    (∃ (s : State) (c : Cycle) (rest : List Cycle), s.inputs = c :: rest ∧ c.rst = false ∧ c.req.valid = false ∧
      c.req.buf = []) ∧
    (∃ (s : State) (c : Cycle) (rest : List Cycle), s.inputs = c :: rest ∧ c.rst = false ∧ c.req.valid = false ∧
      c.req.buf.length = 7) :=
  ⟨⟨busy.present (Cycle.ofRequest Request.none), _, _, rfl, rfl, rfl, rfl⟩,
    ⟨busy.present (Cycle.ofInstr (.wireframe 1 1 0 0 0 0) 0), _, _, rfl, rfl, rfl, rfl⟩⟩

theorem witness_UndrivenStepChangesNoEntry : ∃ s : State, s.inputs = [] ∧ s.sst ≠ [] :=
  ⟨holding 1 1, rfl, by decide⟩

theorem witness_PresentedTableWordRuns :
    decodeTableWord 8 2 = some (.classify 0 0) ∧ decodeTableWord 56 0 = some (.wireframe 0 0 0 0 0 0) := by decide

theorem witness_NoConditionIsFatal : ∃ (s t : State) (c : Cycle) (rest : List Cycle) (x : StationId),
    s.inputs = c :: rest ∧ c.rst = false ∧ step s = .next t ∧ c.concerns.map (·.1) ≠ some x :=
  ⟨busy, _, _, _, 7, rfl, rfl, rfl, by decide⟩

/-- Lengths 0, 6 and 8, the neighbours of 7 among them. -/
theorem witness_DecodeOfWrongLengthIsMalformed :
    ([] : Buffer).length ≠ 7 ∧ (List.replicate 6 0 : Buffer).length ≠ 7 ∧ (List.replicate 8 0 : Buffer).length ≠ 7 := by
  decide

/-- E10 and E11: two sets of operands, one frame; and a value wider than the default VW. -/
theorem witness_EncodeTruncatesValues :
    0xFFFF % 1024 = 1023 % 1024 ∧ 1024 % 1024 = 0 ∧ (2 ^ 20 + 5) % 1024 = 5 ∧ 10 ≤ 10 ∧
      (0xFFFF#16).toNat % 1024 = (1023#10).toNat % 1024 := by decide

theorem witness_EncodeOfDecodedPacket : ([1, 255, 0xFF, 0, 0x55, 0xAA, 0xC6] : Buffer).length = 7 := by decide

/-- Frames that agree in lane 0 alone, in both directions. -/
theorem witness_LanesAreIndependent :
    ∃ f g : WireFrame, f ≠ g ∧ f[2] = g[2] ∧ f[6].extractLsb' 6 2 = g[6].extractLsb' 6 2 :=
  ⟨#v[0, 0, 5, 0, 0, 0, 0xC0], #v[1, 1, 5, 1, 1, 1, 0xD5], by decide⟩

theorem witness_StorelessFormsFrame : ∃ t u v, exec (.encode 1 2 3 4 5 6) busy = .next t ∧
    exec (.decode [1, 2]) busy = .next u ∧ exec (.wireframe 1 2 3 4 5 6) busy = .next v :=
  ⟨_, _, _, rfl, rfl, rfl⟩

theorem witness_FirstRequestIsAccepted : busy.entry 2 = none := by decide

theorem witness_DistanceZeroIsDuplicate :
    busy.entry 7 = some 254 ∧ forwardDistance 254 254 = 0 ∧ (holding 0 0).entry 0 = some 0 ∧
      forwardDistance 255 0 = 0 := by decide

/-- Both ends: distances 1 and 127. -/
theorem witness_AheadHalfIsAccepted :
    busy.entry 7 = some 254 ∧ forwardDistance 0 254 = 1 ∧ forwardDistance 126 254 = 127 := by decide

/-- Both ends: distances 128 and 254. -/
theorem witness_BehindHalfIsStale :
    busy.entry 7 = some 254 ∧ forwardDistance 127 254 = 128 ∧ forwardDistance 253 254 = 254 := by decide

theorem witness_StateChangesOnlyOnAccept : ∃ t u v w,
    exec (.classify 1 4) busy = .next t ∧ t.accepted = true ∧ exec (.classify 1 2) busy = .next u ∧ u.accepted = false ∧
    exec (.receive [1, 4, 0, 0, 0, 0, 0]) busy = .next v ∧ exec (.receive [1, 4, 9, 9, 9, 9, 9]) busy = .next w :=
  ⟨_, _, _, _, rfl, rfl, rfl, rfl, rfl, rfl⟩

theorem witness_StoringFormsFrame :
    (∃ t, exec (.classify 1 4) busy = .next t) ∧ concerns (.classify 1 4) = some (1, 4) ∧ (0 : Nat) ≠ (1 : StationId).toNat ∧
    (∃ t, exec (.receive [2, 9, 0, 0, 0, 0, 0]) busy = .next t) ∧ concerns (.receive [2, 9, 0, 0, 0, 0, 0]) = some (2, 9) ∧
    (∃ t, exec (.receive [2]) busy = .next t) ∧ concerns (.receive [2]) = none :=
  ⟨⟨_, rfl⟩, rfl, by decide, ⟨_, rfl⟩, rfl, ⟨_, rfl⟩, rfl⟩

theorem witness_EntryIsCreatedByFirstRequest : ∃ (s t : State) (c : Cycle) (rest : List Cycle),
    s.inputs = c :: rest ∧ step s = .next t ∧ s.entry 2 = none ∧ c.concerns = some (2, 9) :=
  ⟨(holding 1 1).present (Cycle.ofInstr (.receive [2, 9, 0, 0, 0, 0, 0]) 2), _, _, _, rfl, rfl, by decide, rfl⟩

theorem witness_EntriesAreIndependent :
    (∃ t, exec (.classify 1 4) busy = .next t ∧ ∀ x n, concerns (.classify 1 4) = some (x, n) → (7 : StationId) ≠ x) ∧
    (∃ t t', (∀ x n, concerns (.classify 1 4) = some (x, n) → busy.entry x = (holding 1 3).entry x) ∧
      exec (.classify 1 4) busy = .next t ∧ exec (.classify 1 4) (holding 1 3) = .next t') := by
  refine ⟨⟨_, rfl, ?_⟩, ⟨_, _, ?_, rfl, rfl⟩⟩ <;> intro x n h <;> cases h <;> decide

theorem witness_EntryLivesUntilReset : ∃ s t : State,
    (∀ c, s.inputs.head? = some c → c.rst = false) ∧ step s = .next t ∧ s.entry 1 ≠ none := by
  refine ⟨busy, _, ?_, rfl, by decide⟩
  intro c h
  cases h
  rfl

theorem witness_Raw255ComparesAsZero : busy.entry 7 = some 254#8 := by decide

theorem witness_Seq255TreatmentIsIrrelevantInRing : (254 : Seq).toNat ≤ Config.seqMax := by decide

theorem witness_ImmediateRepeatIsRejected : ∃ t u v w,
    exec (.classify 1 4) busy = .next t ∧ exec (.classify 1 4) t = .next u ∧ t.accepted = true ∧
    exec (.classify 1 2) busy = .next v ∧ exec (.classify 1 2) v = .next w ∧ v.accepted = false :=
  ⟨_, _, _, _, rfl, rfl, rfl, rfl, rfl, rfl⟩

/-- S9 with two repeats. -/
theorem witness_RepeatsNeverBecomeAcceptable : ∃ s : State, s.entry 7 = some 5 ∧
    s.inputs = List.replicate 2 (Cycle.ofInstr (.classify 7 5) 0) :=
  ⟨{ holding 7 5 with inputs := List.replicate 2 (Cycle.ofInstr (.classify 7 5) 0) }, by decide, rfl⟩

theorem witness_HalfRingIsAccepted :
    busy.entry 7 = some 254 ∧ (254 : Seq).toNat ≤ 254 ∧ ringAhead 254 127 = 126 ∧ ringBehind 254 127 = 127 := by decide

theorem witness_NumbersBehindAcceptedAreStale : ∃ t, (4 : Seq).toNat ≤ 254 ∧ exec (.classify 1 4) busy = .next t ∧
    t.accepted = true ∧ busy.entry 1 = some 3 := ⟨_, by decide, rfl, rfl, by decide⟩

/-- 0 is accepted again after `last` has moved 1 and then 127 steps: 128 in all, the least. -/
theorem witness_ReplayNeedsHalfRingOfTravel : ∃ (s t u : State) (c : Cycle) (rest : List Cycle),
    s.entry 9 = some 0 ∧ run 2 s = .next t ∧ (∀ c' ∈ s.inputs.take 2, c'.rst = false) ∧ t.inputs = c :: rest ∧
    c.concerns = some (9, 0) ∧ step t = .next u ∧ u.accepted = true ∧ travel 9 2 s = 128 := by
  refine ⟨{ holding 9 0 with inputs := [Cycle.ofInstr (.classify 9 1) 0, Cycle.ofInstr (.classify 9 128) 0,
    Cycle.ofInstr (.classify 9 0) 0] }, _, _, _, _, by decide, rfl, ?_, rfl, rfl, rfl, rfl, by decide⟩
  decide

theorem witness_ForgedNumberLocksOutStation : busy.entry 7 = some 254 ∧ (254 : Seq).toNat ≤ 254 := by decide

theorem witness_MalformedReceiveChangesNothing : ∃ (s t u v : State) (c : Cycle) (rest : List Cycle),
    ([1, 5] : Buffer).length ≠ 7 ∧ s.inputs = Cycle.ofInstr (.receive [1, 5]) 7 :: c :: rest ∧ step s = .next t ∧
    step t = .next u ∧ step { s with inputs := c :: rest } = .next v :=
  ⟨{ busy with inputs := busy.inputs.tail }, _, _, _, _, _, by decide, rfl, rfl, rfl, rfl⟩

theorem witness_ReceiveIsDecodeThenClassify : ∃ t u,
    exec (.decode [1, 5]) busy = .next t ∧ t.rsp = .response (.error .malformedFrame) ∧
    exec (.decode [2, 9, 0, 0, 0, 0, 0]) busy = .next u ∧ u.rsp = .response (.packet ⟨2, 9, #v[0, 0, 0, 0]⟩) :=
  ⟨_, _, rfl, rfl, rfl, by decide⟩

theorem witness_MalformedFrameOnlyFromLength : ∃ t u,
    exec (.receive [1, 5]) busy = .next t ∧ t.rsp = .response (.error .malformedFrame) ∧
    exec (.classify 1 5) busy = .next u ∧ u.rsp ≠ .response (.error .malformedFrame) :=
  ⟨_, _, rfl, rfl, rfl, by decide⟩

theorem witness_ResponsesAreNotRemembered : ∃ s s' t t' : State, s ≠ s' ∧ s.sst = s'.sst ∧ s.inputs = s'.inputs ∧
    run 1 s = .next t ∧ run 1 s' = .next t' :=
  ⟨busy, busy.raiseMalformedFrame, _, _, by decide, rfl, rfl, rfl, rfl⟩

theorem witness_IndicatorsOfEachOutcome : ∃ t u v w x,
    exec (.encode 1 2 3 4 5 6) busy = .next t ∧ exec (.decode [0, 0, 0, 0, 0, 0, 0]) busy = .next u ∧
    exec (.classify 1 4) busy = .next v ∧ exec (.receive [0, 0, 0, 0, 0, 0, 0]) busy = .next w ∧
    exec (.receive [0, 0, 0, 0, 0, 0]) busy = .next x := ⟨_, _, _, _, _, rfl, rfl, rfl, rfl, rfl⟩

theorem witness_DecisionCodesOnPins :
    (busy.respond (.decision .accept)).rsp.decision? = some .accept ∧
    (busy.respond (.decision .rejectDuplicate)).rsp.decision? = some .rejectDuplicate ∧
    (busy.respond (.decision .rejectStale)).rsp.decision? = some .rejectStale := by decide

theorem witness_DebugPortShowsEntryBefore : ∃ (s t t' : State) (c : Cycle) (rest : List Cycle),
    s.inputs = c :: rest ∧ step s = .next t ∧ s.entry c.dbgStation = some 3 ∧
    step { s with inputs := { c with dbgStation := 2 } :: rest } = .next t' ∧ s.entry 2 = none :=
  ⟨busy, _, _, _, _, rfl, rfl, by decide, rfl, by decide⟩

theorem witness_FramePinsIgnoredUnlessLengthSeven :
    ((Cycle.ofInstr (.receive [1, 5]) 0).pins ⟨10, 3⟩).takesBuffer = true ∧
    ((Cycle.ofInstr (.receive [1, 5]) 0).pins ⟨10, 3⟩).reqLen ≠ 7 ∧
    (Cycle.ofInstr (.receive [1, 5]) 0).pins.takesBuffer = true ∧ (Cycle.ofInstr (.receive [1, 5]) 0).pins.reqLen ≠ 7 ∧
    (Cycle.ofInstr (.decode []) 0).pins.takesBuffer = true ∧ (Cycle.ofInstr (.decode []) 0).pins.reqLen ≠ 7 := by decide

theorem witness_PinLevelRefinesOperationLevel : ∃ (s t : State) (c : Cycle) (rest : List Cycle),
    Config.widthsOk ⟨10, 3⟩ = true ∧ s.inputs = c :: rest ∧ step s = .next t := ⟨busy, _, _, _, rfl, rfl, rfl⟩

theorem witness_WidthsChangeNoResult : Config.widthsOk ⟨10, 3⟩ = true ∧ Config.widthsOk Config.widths = true := by decide

theorem witness_StationSeesOnlyItsOwnRequests : ∃ t t',
    run busy.inputs.length busy = .next t ∧ (busy.inputs.filter (Cycle.touches 2)).length = 1 ∧
    run (busy.inputs.filter (Cycle.touches 2)).length { busy with inputs := busy.inputs.filter (Cycle.touches 2) } =
      .next t' := ⟨_, _, rfl, by decide, rfl⟩

end Sys2Proof.Tests
end

section
/-! PROOFS of the scope's statements (spec/00_scope.md): the pin level against the operation level (R7, R8), and how a
step runs what its cycle presents (R14, R19). -/

namespace Sys2Proof.Machine

/-! ### The frame bus against the codec's formulas -/

/-- R61 against R64: the slices of the bus are the fields that the decoder's formulas give. -/
theorem wireframeOfBus_busOfBytes (b0 b1 b2 b3 b4 b5 b6 : Byte) :
    wireframeOfBus (busOfBytes b0 b1 b2 b3 b4 b5 b6) =
      .wireframe b0 b1 (laneValue b2 b6 0) (laneValue b3 b6 1) (laneValue b4 b6 2) (laneValue b5 b6 3) := by
  have h0 := b0.isLt
  have h1 := b1.isLt
  have h2 := b2.isLt
  have h3 := b3.isLt
  have h4 := b4.isLt
  have h5 := b5.isLt
  have h6 := b6.isLt
  simp only [wireframeOfBus, Instr.wireframe.injEq]
  refine ⟨?_, ?_, ?_, ?_, ?_, ?_⟩ <;> apply BitVec.eq_of_toNat_eq <;>
    simp only [append_toNat, slice_toNat, laneValue_toNat, busOfBytes_toNat, slotShift, Nat.reduceMul, Nat.reduceSub,
      Nat.reducePow, Nat.div_one] <;> omega

/-- R91: the low byte's slice of a value port of legal width. -/
theorem valuePort_lowByte {w : Config.Widths} (hw : Config.widthsOk w = true) (v : ValueIn) :
    ((BitVec.ofNat w.vw v).extractLsb' 0 8).toNat = v % 256 := by
  have h := valuePort_low hw v
  rw [slice_toNat]
  omega

/-- R91: the high pair's slice of a value port of legal width. -/
theorem valuePort_highPair {w : Config.Widths} (hw : Config.widthsOk w = true) (v : ValueIn) :
    ((BitVec.ofNat w.vw v).extractLsb' 8 2).toNat = v / 256 % 4 := by
  have h := valuePort_low hw v
  rw [slice_toNat]
  omega

/-- R65: the bytes of ENCODE's frame on the bus. -/
theorem busOfFrame_encodeFrame (sid : StationId) (seq : Seq) (v0 v1 v2 v3 : ValueIn) :
    busOfFrame (encodeFrame sid seq v0 v1 v2 v3) =
      busOfBytes sid seq (lowByte v0) (lowByte v1) (lowByte v2) (lowByte v3) (packHigh v0 v1 v2 v3) := rfl

/-- R61 against R65: the wiring of ENCODE drives the frame of the formulas, for every legal VW. -/
theorem pins_encodedFrame {w : Config.Widths} (hw : Config.widthsOk w = true) (c : Cycle) :
    (c.pins w).encodedFrame =
      busOfFrame (encodeFrame c.req.station c.req.seq c.req.val0 c.req.val1 c.req.val2 c.req.val3) := by
  apply BitVec.eq_of_toNat_eq
  rw [busOfFrame_encodeFrame, busOfBytes_toNat]
  simp only [InPins.encodedFrame, Cycle.pins, append_toNat, valuePort_lowByte hw, valuePort_highPair hw, lowByte_toNat,
    packHigh_toNat, Nat.reducePow]
  omega

/-! ### The ring on the pins -/

/-- R129: the difference of two bytes less the borrow. -/
theorem differenceLessBorrow_toNat (n last : Seq) :
    ((n - last) - (if n.ult last then 1#8 else 0#8)).toNat =
      if n.toNat < last.toNat then n.toNat + 255 - last.toNat else n.toNat - last.toNat := by
  have hn := n.isLt
  have hl := last.isLt
  simp only [BitVec.ult, decide_eq_true_eq]
  split <;> simp only [BitVec.toNat_sub, BitVec.toNat_ofNat] <;> omega

/-- R129: the 8-bit form computes the forward distance, for every two bytes. -/
theorem pinDistance_toNat (n last : Seq) : (pinDistance n last).toNat = forwardDistance n last := by
  have hn := n.isLt
  have hl := last.isLt
  have hfd := differenceLessBorrow_toNat n last
  rw [forwardDistance_eq]
  simp only [pinDistance, ← BitVec.toNat_inj, apply_ite BitVec.toNat, BitVec.toNat_ofNat] at hfd ⊢
  generalize (n - last - if n.ult last then 1#8 else 0#8).toNat = fd at hfd ⊢
  split at hfd <;> split <;> omega

/-- R73: the pins' decision is the code of the classification's. -/
theorem pinDecision_sstRead (m : Memory) (x : StationId) (n : Seq) :
    pinDecision (sstRead m x) n = decisionCode (ringClassify m x n).2 := by
  have hz : ∀ last, pinDistance n last = 0#8 ↔ forwardDistance n last = 0 := fun last => by
    rw [← pinDistance_toNat, ← BitVec.toNat_inj]; rfl
  have hu : ∀ last, (pinDistance n last).ule 127#8 = decide (forwardDistance n last ≤ 127) := fun last => by
    rw [← pinDistance_toNat]; rfl
  rcases ringClassify_cases m x n with ⟨hr, h⟩ | ⟨last, hr, hd, h⟩ | ⟨last, hr, h1, h2, h⟩ | ⟨last, hr, h1, h⟩ <;>
    rw [h, hr]
  · rfl
  · simp [pinDecision, decisionCode, hz, hd]
  · simp [pinDecision, decisionCode, hz, hu, h2, show forwardDistance n last ≠ 0 by omega]
  · simp [pinDecision, decisionCode, hz, hu, show forwardDistance n last ≠ 0 by omega,
      show ¬ forwardDistance n last ≤ 127 by omega]

/-! ### The buffer on the pins -/

/-- The packet outputs of the pins, slices of the frame bus (R61), hold a packet's fields. -/
structure Packet.OnBus (q : Packet) (f : FrameBus) : Prop where
  station : f.extractLsb' 48 8 = q.stationId
  seq : f.extractLsb' 40 8 = q.sequenceNumber
  val0 : f.extractLsb' 6 2 ++ f.extractLsb' 32 8 = q.values[0]
  val1 : f.extractLsb' 4 2 ++ f.extractLsb' 24 8 = q.values[1]
  val2 : f.extractLsb' 2 2 ++ f.extractLsb' 16 8 = q.values[2]
  val3 : f.extractLsb' 0 2 ++ f.extractLsb' 8 8 = q.values[3]

/-- A buffer of seven bytes puts its packet on the bus. -/
theorem decodeFrame_onBus (b0 b1 b2 b3 b4 b5 b6 : Byte) :
    (decodeFrame #v[b0, b1, b2, b3, b4, b5, b6]).OnBus (framePort [b0, b1, b2, b3, b4, b5, b6]) := by
  obtain ⟨hstation, hseq, h0, h1, h2, h3⟩ := Instr.wireframe.inj (wireframeOfBus_busOfBytes b0 b1 b2 b3 b4 b5 b6)
  exact ⟨hstation, hseq, h0, h1, h2, h3⟩

section
variable {w : Config.Widths} {c : Cycle}

/-- R120: the station and the number of CLASSIFY are the ports'. -/
theorem pins_station_of_classify (hop : c.req.op = 0b10#2) : (c.pins w).station = c.req.station := if_pos hop

theorem pins_seq_of_classify (hop : c.req.op = 0b10#2) : (c.pins w).seq = c.req.seq := if_pos hop

variable {b0 b1 b2 b3 b4 b5 b6 : Byte}

theorem pins_packet (hbuf : c.req.buf = [b0, b1, b2, b3, b4, b5, b6]) :
    (decodeFrame #v[b0, b1, b2, b3, b4, b5, b6]).OnBus (c.pins w).reqFrame := by
  simpa only [Cycle.pins, hbuf] using decodeFrame_onBus b0 b1 b2 b3 b4 b5 b6

/-- R150: the station and the number of RECEIVE are bytes 0 and 1 of the bus. -/
theorem pins_station_of_receive (hop : c.req.op = 0b11#2) (hbuf : c.req.buf = [b0, b1, b2, b3, b4, b5, b6]) :
    (c.pins w).station = b0 := by
  have hreq : (c.pins w).reqOp ≠ 0b10#2 := by simp [Cycle.pins, hop]
  rw [InPins.station, if_neg hreq]
  exact (pins_packet hbuf).station

theorem pins_seq_of_receive (hop : c.req.op = 0b11#2) (hbuf : c.req.buf = [b0, b1, b2, b3, b4, b5, b6]) :
    (c.pins w).seq = b1 := by
  have hreq : (c.pins w).reqOp ≠ 0b10#2 := by simp [Cycle.pins, hop]
  rw [InPins.seq, if_neg hreq]
  exact (pins_packet hbuf).seq

end

/-- R94 on the pins: the only check of the decoder is that the buffer has seven bytes. -/
theorem pins_lenOk {w : Config.Widths} (hw : Config.widthsOk w = true) (c : Cycle) :
    (c.pins w).lenOk = (c.req.buf.length == 7) := by
  rw [Bool.eq_iff_iff, beq_iff_eq, ← lenPort_eq_seven hw]
  exact beq_iff_eq

/-! ### The outputs of a cycle -/

/-- The pin-level design, at the given inputs and table, shows what a state shows and stores what it holds. -/
def State.AgreesWithPins {w : Config.Widths} (t : State) (p : InPins w) (m : Memory) : Prop :=
  t.outPins = pinOutputs p m t.freeIdx ∧ t.sst = pinNextTable p m

/-- The signals of the pin-level design are those of a response (R72): each indicator, and each datum that is valid. -/
structure Response.OnPins {w : Config.Widths} (x : Response) (p : InPins w) (m : Memory) : Prop where
  err : errBit x = (p.takesBuffer && !p.lenOk)
  frameValid : frameValidBit x = (p.reqOp == 0b00#2)
  pktValid : pktValidBit x = p.givesPacket
  decValid : decValidBit x = p.givesDecision
  frame : ∀ f, (Rsp.response x).frame? = some f → p.encodedFrame = busOfFrame f
  packet : ∀ q, (Rsp.response x).packet? = some q → q.OnBus p.reqFrame
  decision : ∀ d, (Rsp.response x).decision? = some d → pinDecision (sstRead m p.station) p.seq = decisionCode d

theorem frameValidBit_eq_isSome (x : Response) : frameValidBit x = (Rsp.response x).frame?.isSome := by
  cases x <;> rfl

theorem pktValidBit_eq_isSome (x : Response) : pktValidBit x = (Rsp.response x).packet?.isSome := by
  cases x <;> rfl

theorem decValidBit_eq_isSome (x : Response) : decValidBit x = (Rsp.response x).decision?.isSome := by
  cases x <;> rfl

section
variable {w : Config.Widths} {p : InPins w} {m : Memory} {t : State}

/-- An indicator of a live request is the signal behind it. -/
theorem bitOut_of_live (hlive : p.live = true) {a b : Bool} (h : a = b) (port : Config.OutPort) (k : Nat) :
    a = p.bitOut b port k := by
  rw [InPins.bitOut, if_pos hlive, h]

theorem bitOut_of_not_live (hlive : p.live = false) (b : Bool) (port : Config.OutPort) (k : Nat) :
    p.bitOut b port k = freeBit port k := by
  rw [InPins.bitOut, hlive, if_neg Bool.false_ne_true]

theorem busOut_of_not_live (hlive : p.live = false) (b : Bool) {n : Nat} (v : BitVec n) (port : Config.OutPort)
    (k : Nat) : p.busOut b v port k = Config.freePort port k n := by
  rw [InPins.busOut, hlive, Bool.false_and, if_neg Bool.false_ne_true]

theorem dataOut_none {α : Type} {n : Nat} (part : α → BitVec n) (port : Config.OutPort) (k : Nat) :
    dataOut none part port k = Config.freePort port k n := rfl

/-- A datum of a live request: the signal behind it when it is valid, else the same free value. -/
theorem dataOut_eq_busOut (hlive : p.live = true) {α : Type} {n : Nat} {o : Option α} {part : α → BitVec n} {b : Bool}
    {v : BitVec n} (hvalid : o.isSome = b) (h : ∀ a, o = some a → v = part a) (port : Config.OutPort) (k : Nat) :
    dataOut o part port k = p.busOut b v port k := by
  subst hvalid
  cases o with
  | none => simp [dataOut, InPins.busOut]
  | some a => simp [dataOut, InPins.busOut, hlive, h a rfl]

/-- A live request is presented and not overridden. -/
theorem live_iff : p.live = true ↔ p.reqValid = true ∧ p.rst = false := by
  simp [InPins.live]

/-- R156: the debug outputs of a state that has sampled the entry are those of the pins. -/
theorem outPins_debug (hdbg : t.dbg = some (p.dbgStation, sstRead m p.dbgStation)) :
    t.outPins.dbgPresent = (pinOutputs p m t.freeIdx).dbgPresent ∧
      t.outPins.dbgLast = (pinOutputs p m t.freeIdx).dbgLast := by
  refine ⟨by simp only [State.outPins, pinOutputs, hdbg], ?_⟩
  simp only [State.outPins, pinOutputs, hdbg, Option.bind_some]
  cases sstRead m p.dbgStation <;> rfl

/-- R72: a response stands on the outputs of a live request. -/
theorem outPins_of_live (hlive : p.live = true) (hdbg : t.dbg = some (p.dbgStation, sstRead m p.dbgStation))
    {x : Response} (hrsp : t.rsp = .response x) (hx : x.OnPins p m) : t.outPins = pinOutputs p m t.freeIdx := by
  obtain ⟨hvalid, hrst⟩ := live_iff.mp hlive
  obtain ⟨hpresent, hlast⟩ := outPins_debug hdbg
  have hf := (frameValidBit_eq_isSome x).symm.trans hx.frameValid
  have hp := (pktValidBit_eq_isSome x).symm.trans hx.pktValid
  have hd := (decValidBit_eq_isSome x).symm.trans hx.decValid
  simp only [State.outPins, pinOutputs, hrsp, Rsp.indicator, OutPins.mk.injEq] at hpresent hlast ⊢
  refine ⟨trivial, by simp [hvalid, hrst], bitOut_of_live hlive hx.err .., bitOut_of_live hlive hx.frameValid ..,
    dataOut_eq_busOut hlive hf hx.frame .., bitOut_of_live hlive hx.pktValid ..,
    dataOut_eq_busOut hlive hp (fun q h => (hx.packet q h).station) ..,
    dataOut_eq_busOut hlive hp (fun q h => (hx.packet q h).seq) ..,
    dataOut_eq_busOut hlive hp (fun q h => (hx.packet q h).val0) ..,
    dataOut_eq_busOut hlive hp (fun q h => (hx.packet q h).val1) ..,
    dataOut_eq_busOut hlive hp (fun q h => (hx.packet q h).val2) ..,
    dataOut_eq_busOut hlive hp (fun q h => (hx.packet q h).val3) ..,
    bitOut_of_live hlive hx.decValid .., dataOut_eq_busOut hlive hd hx.decision .., hpresent, hlast⟩

/-- R72, R202: with no live request every response output but `rsp_valid` is free. -/
theorem outPins_of_not_live (hlive : p.live = false) (hdbg : t.dbg = some (p.dbgStation, sstRead m p.dbgStation))
    (hrsp : t.rsp = if p.reqValid then .unspecified else .idle) : t.outPins = pinOutputs p m t.freeIdx := by
  obtain ⟨hpresent, hlast⟩ := outPins_debug hdbg
  have hbit : ∀ bit port, t.rsp.indicator bit port t.freeIdx = freeBit port t.freeIdx := by
    rw [hrsp]; cases p.reqValid <;> exact fun _ _ => rfl
  have hf : t.rsp.frame? = none := by rw [hrsp]; cases p.reqValid <;> rfl
  have hp : t.rsp.packet? = none := by rw [hrsp]; cases p.reqValid <;> rfl
  have hd : t.rsp.decision? = none := by rw [hrsp]; cases p.reqValid <;> rfl
  have hvalid : t.outPins.rspValid = (pinOutputs p m t.freeIdx).rspValid := by
    cases hv : p.reqValid with
    | false => simp [State.outPins, pinOutputs, hrsp, hv]
    | true =>
      have hrst : p.rst = true := by simpa [InPins.live, hv] using hlive
      simp [State.outPins, pinOutputs, hrsp, hv, hrst]
  simp only [State.outPins, pinOutputs, hbit, hf, hp, hd, dataOut_none, bitOut_of_not_live hlive,
    busOut_of_not_live hlive, OutPins.mk.injEq] at hpresent hlast hvalid ⊢
  exact ⟨trivial, hvalid, trivial, trivial, trivial, trivial, trivial, trivial, trivial, trivial, trivial, trivial,
    trivial, trivial, hpresent, hlast⟩

/-- R120, R127: the table of a live request is that of the classification, when it makes one. -/
theorem pinNextTable_of_live (hlive : p.live = true) :
    pinNextTable p m = if p.givesDecision then (ringClassify m p.station p.seq).1 else m := by
  obtain ⟨-, hrst⟩ := live_iff.mp hlive
  have hcode : ∀ d, (decisionCode d == 0b00#2) = decide (d = .accept) := fun d => by cases d <;> rfl
  simp only [pinNextTable, hrst, hlive, pinDecision_sstRead, hcode, Bool.true_and]
  cases p.givesDecision with
  | false => simp
  | true => rcases ringClassify_table m p.station p.seq with ⟨hm, hd⟩ | ⟨hm, hd⟩ <;> simp [hm, hd]

/-- A live request agrees with the pins when its response stands on them and its classification is the one they make. -/
theorem agreesWithPins_of_live (hlive : p.live = true) (hdbg : t.dbg = some (p.dbgStation, sstRead m p.dbgStation))
    {x : Response} (hrsp : t.rsp = .response x) (hx : x.OnPins p m)
    (hsst : t.sst = if decValidBit x then (ringClassify m p.station p.seq).1 else m) : t.AgreesWithPins p m :=
  ⟨outPins_of_live hlive hdbg hrsp hx, by rw [pinNextTable_of_live hlive, ← hx.decValid, hsst]⟩

end

/-! ### The response of each operation on the pins -/

section
variable {w : Config.Widths} {c : Cycle} {m : Memory}

/-- ENCODE (R90). -/
theorem frame_onPins (hw : Config.widthsOk w = true) (hop : c.req.op = 0b00#2) :
    (Response.frame (encodeFrame c.req.station c.req.seq c.req.val0 c.req.val1 c.req.val2 c.req.val3)).OnPins
      (c.pins w) m :=
  have hreq : (c.pins w).reqOp = 0b00#2 := hop
  { err := by simp [errBit, InPins.takesBuffer, hreq]
    frameValid := by simp [frameValidBit, hreq]
    pktValid := by simp [pktValidBit, InPins.givesPacket, InPins.takesBuffer, hreq]
    decValid := by simp [decValidBit, InPins.givesDecision, hreq]
    frame := fun _ h => Option.some.inj h ▸ pins_encodedFrame hw c
    packet := nofun
    decision := nofun }

/-- DECODE of seven bytes (R94). -/
theorem packet_onPins (hw : Config.widthsOk w = true) (hop : c.req.op = 0b01#2) {b0 b1 b2 b3 b4 b5 b6 : Byte}
    (hbuf : c.req.buf = [b0, b1, b2, b3, b4, b5, b6]) :
    (Response.packet (decodeFrame #v[b0, b1, b2, b3, b4, b5, b6])).OnPins (c.pins w) m :=
  have hreq : (c.pins w).reqOp = 0b01#2 := hop
  have hlen : (c.pins w).lenOk = true := by rw [pins_lenOk hw, hbuf]; rfl
  { err := by simp [errBit, hlen]
    frameValid := by simp [frameValidBit, hreq]
    pktValid := by simp [pktValidBit, InPins.givesPacket, InPins.takesBuffer, hreq, hlen]
    decValid := by simp [decValidBit, InPins.givesDecision, hreq]
    frame := nofun
    packet := fun _ h => Option.some.inj h ▸ pins_packet hbuf
    decision := nofun }

/-- DECODE and RECEIVE of another length (R94, R151). -/
theorem malformed_onPins (hw : Config.widthsOk w = true) (hop : c.req.op = 0b01#2 ∨ c.req.op = 0b11#2)
    (hbuf : c.req.buf.length ≠ 7) : (Response.error .malformedFrame).OnPins (c.pins w) m :=
  have htakes : (c.pins w).takesBuffer = true := by simpa [InPins.takesBuffer, Cycle.pins] using hop
  have hlen : (c.pins w).lenOk = false := by rw [pins_lenOk hw]; simpa using hbuf
  have hreq : (c.pins w).reqOp ≠ 0b00#2 ∧ (c.pins w).reqOp ≠ 0b10#2 := by
    change c.req.op ≠ 0b00#2 ∧ c.req.op ≠ 0b10#2
    rcases hop with h | h <;> rw [h] <;> decide
  { err := by simp [errBit, htakes, hlen]
    frameValid := by simp [frameValidBit, hreq]
    pktValid := by simp [pktValidBit, InPins.givesPacket, hlen]
    decValid := by simp [decValidBit, InPins.givesDecision, hreq, hlen]
    frame := nofun
    packet := nofun
    decision := nofun }

/-- CLASSIFY (R120). -/
theorem decision_onPins (hop : c.req.op = 0b10#2) :
    (Response.decision (ringClassify m c.req.station c.req.seq).2).OnPins (c.pins w) m :=
  have hreq : (c.pins w).reqOp = 0b10#2 := hop
  { err := by simp [errBit, InPins.takesBuffer, hreq]
    frameValid := by simp [frameValidBit, hreq]
    pktValid := by simp [pktValidBit, InPins.givesPacket, InPins.takesBuffer, hreq]
    decValid := by simp [decValidBit, InPins.givesDecision, hreq]
    frame := nofun
    packet := nofun
    decision := fun _ h => by
      rw [← Option.some.inj h, pins_station_of_classify hop, pins_seq_of_classify hop, pinDecision_sstRead] }

/-- RECEIVE of seven bytes (R150). -/
theorem packetDecision_onPins (hw : Config.widthsOk w = true) (hop : c.req.op = 0b11#2) {b0 b1 b2 b3 b4 b5 b6 : Byte}
    (hbuf : c.req.buf = [b0, b1, b2, b3, b4, b5, b6]) :
    (Response.packetDecision (decodeFrame #v[b0, b1, b2, b3, b4, b5, b6]) (ringClassify m b0 b1).2).OnPins
      (c.pins w) m :=
  have hreq : (c.pins w).reqOp = 0b11#2 := hop
  have hlen : (c.pins w).lenOk = true := by rw [pins_lenOk hw, hbuf]; rfl
  { err := by simp [errBit, hlen]
    frameValid := by simp [frameValidBit, hreq]
    pktValid := by simp [pktValidBit, InPins.givesPacket, InPins.takesBuffer, hreq, hlen]
    decValid := by simp [decValidBit, InPins.givesDecision, hreq, hlen]
    frame := nofun
    packet := fun _ h => Option.some.inj h ▸ pins_packet hbuf
    decision := fun _ h => by
      rw [← Option.some.inj h, pins_station_of_receive hop hbuf, pins_seq_of_receive hop hbuf, pinDecision_sstRead] }

end

/-! ### A step on the pins -/

/-- R71, R76: a cycle with no request is the no-operation, whatever stands on the bus. -/
theorem step_of_no_request {s : State} {c : Cycle} {rest : List Cycle} (hin : s.inputs = c :: rest)
    (hrst : c.rst = false) (hvalid : c.req.valid = false) : step s = .next (s.beginCycle c rest).idle := by
  have hdec : decode c.req = decodeIdle c.req.buf := by simp [decode, hvalid]
  unfold decodeIdle at hdec
  split at hdec
  · rw [step_exec hin hrst hdec, wireframeOfBus, exec_wireframe]
  · exact step_idle hin hrst hdec

/-- The four codes of `req_op`, none reserved (R71). -/
theorem op_cases : ∀ op : BitVec 2, op = 0b00#2 ∨ op = 0b01#2 ∨ op = 0b10#2 ∨ op = 0b11#2 := by decide

section
variable {w : Config.Widths} {s t : State} {c : Cycle} {rest : List Cycle}

/-- R200, R202: a cycle with reset. -/
theorem resetCycle_agreesWithPins (hrst : c.rst = true) :
    ((s.beginCycle c rest).resetCycle c.req.valid).AgreesWithPins (c.pins w) s.sst := by
  have hlive : (c.pins w).live = false := by simp [InPins.live, Cycle.pins, hrst]
  exact ⟨outPins_of_not_live hlive rfl rfl, (if_pos hrst).symm⟩

/-- R71: a cycle with no request. -/
theorem idle_agreesWithPins (hrst : c.rst = false) (hvalid : c.req.valid = false) :
    (s.beginCycle c rest).idle.AgreesWithPins (c.pins w) s.sst := by
  have hlive : (c.pins w).live = false := by simp [InPins.live, Cycle.pins, hvalid]
  have hrst' : (c.pins w).rst = false := hrst
  refine ⟨outPins_of_not_live hlive rfl ?_, ?_⟩
  · exact (if_neg (by simpa [Cycle.pins] using hvalid)).symm
  · simp [pinNextTable, hlive, hrst']

/-- R71: a request of any operation. -/
theorem request_agreesWithPins (hw : Config.widthsOk w = true) (hin : s.inputs = c :: rest) (hrst : c.rst = false)
    (hvalid : c.req.valid = true) (hstep : step s = .next t) : t.AgreesWithPins (c.pins w) s.sst := by
  have hlive : (c.pins w).live = true := live_iff.mpr ⟨hvalid, hrst⟩
  rcases op_cases c.req.op with hop | hop | hop | hop
  · have hdec : decode c.req = .ok (.encode c.req.station c.req.seq c.req.val0 c.req.val1 c.req.val2 c.req.val3) := by
      simp [decode, hvalid, hop]
    rw [step_exec hin hrst hdec, exec_encode] at hstep
    cases hstep
    exact agreesWithPins_of_live hlive rfl rfl (frame_onPins hw hop) rfl
  · have hdec : decode c.req = .ok (.decode c.req.buf) := by simp [decode, hvalid, hop]
    rw [step_exec hin hrst hdec] at hstep
    rcases buffer_cases c.req.buf with ⟨b0, b1, b2, b3, b4, b5, b6, hbuf⟩ | hbuf
    · rw [hbuf, exec_decode_seven] at hstep
      cases hstep
      exact agreesWithPins_of_live hlive rfl rfl (packet_onPins hw hop hbuf) rfl
    · rw [exec_decode_malformed hbuf] at hstep
      cases hstep
      exact agreesWithPins_of_live hlive rfl rfl (malformed_onPins hw (.inl hop) hbuf) rfl
  · have hdec : decode c.req = .ok (.classify c.req.station c.req.seq) := by simp [decode, hvalid, hop]
    rw [step_exec hin hrst hdec, exec_classify] at hstep
    cases hstep
    refine agreesWithPins_of_live hlive rfl rfl (decision_onPins hop) ?_
    rw [pins_station_of_classify hop, pins_seq_of_classify hop]
    rfl
  · have hdec : decode c.req = .ok (.receive c.req.buf) := by simp [decode, hvalid, hop]
    rw [step_exec hin hrst hdec] at hstep
    rcases buffer_cases c.req.buf with ⟨b0, b1, b2, b3, b4, b5, b6, hbuf⟩ | hbuf
    · rw [hbuf, exec_receive_seven] at hstep
      cases hstep
      refine agreesWithPins_of_live hlive rfl rfl (packetDecision_onPins hw hop hbuf) ?_
      rw [pins_station_of_receive hop hbuf, pins_seq_of_receive hop hbuf]
      rfl
    · rw [exec_receive_malformed hbuf] at hstep
      cases hstep
      exact agreesWithPins_of_live hlive rfl rfl (malformed_onPins hw (.inr hop) hbuf) rfl

end

/-- Settles O58: a step is a reset, an idle cycle or a request, and each agrees with the pins. -/
theorem pinLevelRefinesOperationLevel : Obligations.PinLevelRefinesOperationLevel := by
  intro w s t c rest hw hin hstep
  cases hrst : c.rst with
  | true =>
    rw [step_reset hin hrst] at hstep
    cases hstep
    exact resetCycle_agreesWithPins hrst
  | false =>
    cases hvalid : c.req.valid with
    | false =>
      rw [step_of_no_request hin hrst hvalid] at hstep
      cases hstep
      exact idle_agreesWithPins hrst hvalid
    | true => exact request_agreesWithPins hw hin hrst hvalid hstep

/-- Settles O60: the widths reach the outputs and the table through the length check and ENCODE's frame alone. -/
theorem widthsChangeNoResult : Obligations.WidthsChangeNoResult := by
  intro w w' c m k hw hw'
  have hlen : (c.pins w).lenOk = (c.pins w').lenOk := by rw [pins_lenOk hw, pins_lenOk hw']
  have hframe : (c.pins w).encodedFrame = (c.pins w').encodedFrame := by
    rw [pins_encodedFrame hw, pins_encodedFrame hw']
  simp only [pinOutputs, pinNextTable, InPins.givesPacket, InPins.givesDecision, hlen, hframe]
  exact ⟨rfl, rfl⟩

/-! ### What a step runs -/

/-- Settles O13: the sampled state is the one `beginCycle` gives. -/
theorem stepRunsDecodedInstruction : Obligations.StepRunsDecodedInstruction :=
  fun _ _ _ _ hin hrst hdec => step_exec hin hrst hdec

/-- Settles O15: the step is `undriven`. -/
theorem undrivenStepChangesNoEntry : Obligations.UndrivenStepChangesNoEntry :=
  fun s hin => ⟨s.undriven, step_nil hin, State.undriven_sst s, hin, State.undriven_rsp s, State.undriven_dbg s⟩

/-- Settles O16: a decoded word's request, presented, heads the inputs with no reset. -/
theorem presentedTableWordRuns : Obligations.PresentedTableWordRuns := by
  intro s nbits w i hword
  have hdec : decode (requestOfTableWord nbits w) = .ok i := by
    cases h : decode (requestOfTableWord nbits w) with
    | ok j => simpa [decodeTableWord, h, Except.toOption] using hword
    | error e => simp [decodeTableWord, h, Except.toOption] at hword
  exact ⟨_, step_exec (s.present_inputs _) rfl hdec, rfl, rfl⟩

end Sys2Proof.Machine
end

section
/-! PROOFS of the statements of spec/10_state.md: the station table as data (R20), what one step does to one entry
(R22, R23, R26, R27), and that a run reads nothing but the table and the inputs (R31, R35). -/

namespace Sys2Proof.Machine

/-! ### One entry under a classification -/

@[simp] theorem sstRead_sstWrite_same (m : Memory) (x : StationId) (n : Seq) : sstRead (sstWrite m x n) x = some n :=
  Memory.read_write_same m x.toNat n

/-- R127: a classification leaves its station's entry or sets it to the number. -/
theorem sstRead_ringClassify_same (m : Memory) (x : StationId) (n : Seq) :
    sstRead (ringClassify m x n).1 x = sstRead m x ∨ sstRead (ringClassify m x n).1 x = some n := by
  rcases ringClassify_table m x n with ⟨hm, _⟩ | ⟨hm, _⟩ <;> simp [hm]

/-- R26: a classification leaves the entry of every other station. -/
theorem sstRead_ringClassify_other (m : Memory) {x y : StationId} (n : Seq) (h : y ≠ x) :
    sstRead (ringClassify m x n).1 y = sstRead m y :=
  ringClassify_read_other m x n y.toNat (station_addr_ne h)

/-- R26: a classification reads its own station's entry alone, so tables that agree on it agree on the decision and on the
entry after it. -/
theorem ringClassify_congr {m m' : Memory} {x : StationId} (n : Seq) (h : sstRead m x = sstRead m' x) :
    (ringClassify m x n).2 = (ringClassify m' x n).2 ∧
      sstRead (ringClassify m x n).1 x = sstRead (ringClassify m' x n).1 x := by
  rcases ringClassify_cases m x n with ⟨hr, e⟩ | ⟨last, hr, hd, e⟩ | ⟨last, hr, h1, h2, e⟩ | ⟨last, hr, h1, e⟩ <;>
    have hr' := h.symm.trans hr
  · simp [e, ringClassify_first n hr']
  · simp [e, ringClassify_duplicate hr' hd, h]
  · simp [e, ringClassify_ahead hr' h1 h2]
  · simp [e, ringClassify_stale hr' h1, h]

/-! ### What an instruction and a cycle do, alike in every state

`exec_cases` and `step_cases` speak of one state. Two runs are compared here, so the response, or how it follows from the
decision, is fixed before the state is. -/

/-- An instruction that concerns no station changes the response alone, to the same one in every state. -/
theorem exec_of_concerns_none {i : Instr} (h : concerns i = none) : ∃ r, ∀ s, exec i s = .next { s with rsp := r } := by
  cases i with
  | encode => exact ⟨_, fun _ => rfl⟩
  | wireframe => exact ⟨_, fun _ => rfl⟩
  | classify => nomatch h
  | decode buf =>
    rcases buffer_cases buf with ⟨b0, b1, b2, b3, b4, b5, b6, rfl⟩ | hlen
    · exact ⟨_, fun _ => rfl⟩
    · exact ⟨_, exec_decode_malformed hlen⟩
  | receive buf =>
    rcases buffer_cases buf with ⟨b0, b1, b2, b3, b4, b5, b6, rfl⟩ | hlen
    · nomatch h
    · exact ⟨_, exec_receive_malformed hlen⟩

/-- An instruction that concerns a station classifies its number, and how the response shows the decision is the same in
every state. -/
theorem exec_of_concerns_some {i : Instr} {x : StationId} {n : Seq} (h : concerns i = some (x, n)) :
    ∃ f : Decision → Rsp, (∀ d, (f d).decision? = some d) ∧ ∀ s,
      exec i s = .next { s with sst := (ringClassify s.sst x n).1, rsp := f (ringClassify s.sst x n).2 } := by
  cases i with
  | encode => nomatch h
  | wireframe => nomatch h
  | decode => nomatch h
  | classify =>
    cases h
    exact ⟨fun d => .response (.decision d), fun _ => rfl, exec_classify _ _⟩
  | receive buf =>
    rcases buffer_cases buf with ⟨b0, b1, b2, b3, b4, b5, b6, rfl⟩ | hlen
    · cases h
      exact ⟨fun d => .response (.packetDecision _ d), fun _ => rfl, exec_receive_seven _ _ _ _ _ _ _⟩
    · exact nomatch (bufferKey_malformed hlen).symm.trans h

theorem Cycle.concerns_of_decode {c : Cycle} {i : Instr} (hrst : c.rst = false) (hdec : decode c.req = .ok i) :
    c.concerns = Machine.concerns i := by
  simp [Cycle.concerns, hrst, hdec]

/-- R202: a cycle that classifies a number has no reset. -/
theorem Cycle.rst_of_concerns {c : Cycle} {q : StationId × Seq} (h : c.concerns = some q) : c.rst = false := by
  cases hrst : c.rst with
  | false => rfl
  | true => simp [Cycle.concerns, hrst] at h

/-- A cycle that neither resets nor classifies changes no entry and shows the same in every state. -/
theorem step_of_concerns_none {c : Cycle} (hrst : c.rst = false) (h : c.concerns = none) :
    ∃ r, ∀ (s : State) (rest : List Cycle), s.inputs = c :: rest →
      step s = .next { s.beginCycle c rest with rsp := r } := by
  rcases hdec : decode c.req with ⟨⟨⟩⟩ | i
  · exact ⟨_, fun _ _ hin => step_idle hin hrst hdec⟩
  · obtain ⟨r, hexec⟩ := exec_of_concerns_none ((Cycle.concerns_of_decode hrst hdec).symm.trans h)
    exact ⟨r, fun _ _ hin => (step_exec hin hrst hdec).trans (hexec _)⟩

/-- A cycle that classifies a number does so in every state, and how it shows the decision is the same in every state. -/
theorem step_of_concerns_some {c : Cycle} {x : StationId} {n : Seq} (h : c.concerns = some (x, n)) :
    ∃ f : Decision → Rsp, (∀ d, (f d).decision? = some d) ∧
      ∀ (s : State) (rest : List Cycle), s.inputs = c :: rest →
        step s = .next { s.beginCycle c rest with
          sst := (ringClassify s.sst x n).1, rsp := f (ringClassify s.sst x n).2 } := by
  have hrst := Cycle.rst_of_concerns h
  rcases hdec : decode c.req with e | i
  · simp [Cycle.concerns, hdec] at h
  · obtain ⟨f, hf, hexec⟩ := exec_of_concerns_some ((Cycle.concerns_of_decode hrst hdec).symm.trans h)
    exact ⟨f, hf, fun _ _ hin => (step_exec hin hrst hdec).trans (hexec _)⟩

/-! ### What a step does to one entry -/

/-- R173: every state takes a step. -/
theorem exists_step_next (s : State) : ∃ t, step s = .next t := by
  rcases step_cases s with ⟨_, e⟩ | ⟨c, rest, _, ⟨_, _, e⟩ | ⟨_, _, _, e⟩ | ⟨_, _, _, _, _, _, e⟩⟩ <;> exact ⟨_, e⟩

/-- R14, R50: a step takes one cycle from the inputs. -/
theorem step_inputs {s t : State} (h : step s = .next t) : t.inputs = s.inputs.tail := by
  rcases step_cases s with ⟨hin, e⟩ | ⟨c, rest, hin, ⟨_, _, e⟩ | ⟨_, _, _, e⟩ | ⟨_, _, _, _, _, _, e⟩⟩ <;>
    cases e.symm.trans h <;> simp [hin]

/-- R25, R27, R127: a step clears an entry by reset, leaves it, or sets it to the number that the cycle classifies. -/
theorem step_entry_cases {s t : State} (h : step s = .next t) (x : StationId) :
    (∃ c, s.inputs.head? = some c ∧ c.rst = true ∧ t.entry x = none) ∨ t.entry x = s.entry x ∨
      ∃ c n, s.inputs.head? = some c ∧ c.concerns = some (x, n) ∧ t.entry x = some n := by
  rcases step_cases s with ⟨_, e⟩ | ⟨c, rest, hin, ⟨hrst, _, e⟩ | ⟨_, _, _, e⟩ | ⟨_, y, n, hc, f, _, e⟩⟩ <;>
    cases e.symm.trans h
  · exact .inr (.inl rfl)
  · exact .inl ⟨c, by simp [hin], hrst, rfl⟩
  · exact .inr (.inl rfl)
  · right
    by_cases hx : x = y
    · subst hx
      exact (sstRead_ringClassify_same s.sst x n).imp_right fun hn => ⟨c, n, by simp [hin], hc, hn⟩
    · exact .inl (sstRead_ringClassify_other s.sst n hx)

/-- Settles O4: an entry after the step is one from before or the cycle's number, and the inputs only get fewer. -/
theorem ringRangeIsKept : Obligations.RingRangeIsKept := by
  rintro s t ⟨hlast, hduty⟩ hstep
  refine ⟨fun x n hx => ?_, fun c hc => hduty c ?_⟩
  · rcases step_entry_cases hstep x with ⟨_, _, _, hnone⟩ | hkept | ⟨c, k, hhead, hc, hk⟩
    · simp [hnone] at hx
    · exact hlast x n (hkept ▸ hx)
    · obtain rfl : k = n := Option.some.inj (hk.symm.trans hx)
      exact hduty c (List.mem_of_head? hhead) x k hc
  · exact List.mem_of_mem_tail (step_inputs hstep ▸ hc)

/-- Settles O40: of the three things a step does to an entry, reset alone takes it away. -/
theorem entryLivesUntilReset : Obligations.EntryLivesUntilReset := by
  intro s t x hnoreset hstep hpresent
  rcases step_entry_cases hstep x with ⟨c, hhead, hrst, _⟩ | hkept | ⟨_, n, _, _, hn⟩
  · simp [hnoreset c hhead] at hrst
  · rwa [hkept]
  · simp [hn]

/-- Settles O38: an absent entry can only be set by the cycle's number, and the first number of a station is accepted. -/
theorem entryIsCreatedByFirstRequest : Obligations.EntryIsCreatedByFirstRequest := by
  intro s t c rest x hin hstep habsent
  have hfirst : ∀ n, c.concerns = some (x, n) → t.entry x = some n ∧ t.rsp.decision? = some .accept := by
    intro n hc
    obtain ⟨f, hf, hstep'⟩ := step_of_concerns_some hc
    cases (hstep' s rest hin).symm.trans hstep
    simp [State.entry, ringClassify_first n habsent, hf]
  refine ⟨⟨fun hpresent => ?_, fun ⟨n, hc⟩ => by simp [hfirst n hc]⟩, hfirst⟩
  rcases step_entry_cases hstep x with ⟨_, _, _, hnone⟩ | hkept | ⟨c', n, hhead, hc, _⟩
  · exact absurd hnone hpresent
  · exact absurd (hkept.trans habsent) hpresent
  · obtain rfl : c = c' := by simpa [hin] using hhead
    exact ⟨n, hc⟩

/-! ### Instructions -/

/-- Settles O27: none of the three concerns a station. -/
theorem storelessFormsFrame : Obligations.StorelessFormsFrame := by
  intro i s t hform hexec
  have hi : concerns i = none := by
    rcases hform with ⟨_, _, _, _, _, _, rfl⟩ | ⟨_, rfl⟩ | ⟨_, _, _, _, _, _, rfl⟩ <;> rfl
  obtain ⟨r, hr⟩ := exec_of_concerns_none hi
  cases (hr s).symm.trans hexec
  exact ⟨rfl, fun _ => rfl, rfl, rfl, rfl⟩

/-- Settles O39: an instruction that concerns a station is one classification of it, any other leaves the table. -/
theorem entriesAreIndependent : Obligations.EntriesAreIndependent := by
  constructor
  · intro i s t y hexec hy
    rcases hi : concerns i with _ | ⟨x, n⟩
    · obtain ⟨r, hr⟩ := exec_of_concerns_none hi
      cases (hr s).symm.trans hexec
      rfl
    · obtain ⟨f, _, hf⟩ := exec_of_concerns_some hi
      cases (hf s).symm.trans hexec
      exact sstRead_ringClassify_other s.sst n (hy x n hi)
  · intro i s s' t t' hentry hexec hexec'
    rcases hi : concerns i with _ | ⟨x, n⟩
    · obtain ⟨r, hr⟩ := exec_of_concerns_none hi
      cases (hr s).symm.trans hexec
      cases (hr s').symm.trans hexec'
      exact ⟨rfl, nofun⟩
    · obtain ⟨f, _, hf⟩ := exec_of_concerns_some hi
      cases (hf s).symm.trans hexec
      cases (hf s').symm.trans hexec'
      obtain ⟨hdecision, hafter⟩ := ringClassify_congr n (hentry x n hi)
      refine ⟨congrArg f hdecision, fun y k hy => ?_⟩
      cases hy
      exact hafter

/-! ### Runs -/

theorem run_succ {s t : State} (h : step s = .next t) (k : Nat) : run (k + 1) s = run k t := by
  simp only [run, Host.Core.run, core, h]

theorem observe_succ {s t : State} (h : step s = .next t) (k : Nat) : observe (k + 1) s = t.rsp :: observe k t := by
  simp only [observe, h]

theorem observeFor_succ {s t : State} {c : Cycle} {rest : List Cycle} (hin : s.inputs = c :: rest)
    (h : step s = .next t) (x : StationId) (k : Nat) :
    observeFor x (k + 1) s = if c.touches x then t.rsp :: observeFor x k t else observeFor x k t := by
  simp [observeFor, h, hin]

/-- R31, R35: the response and the table after a step follow from the table and the inputs before it. -/
theorem step_congr {s s' t t' : State} (hsst : s.sst = s'.sst) (hinputs : s.inputs = s'.inputs)
    (h : step s = .next t) (h' : step s' = .next t') : t.rsp = t'.rsp ∧ t.sst = t'.sst := by
  rcases hin : s.inputs with _ | ⟨c, rest⟩ <;> have hin' := hinputs.symm.trans hin
  · cases (step_nil hin).symm.trans h
    cases (step_nil hin').symm.trans h'
    exact ⟨rfl, hsst⟩
  cases hrst : c.rst with
  | true =>
    cases (step_reset hin hrst).symm.trans h
    cases (step_reset hin' hrst).symm.trans h'
    exact ⟨rfl, rfl⟩
  | false =>
    rcases hc : c.concerns with _ | ⟨x, n⟩
    · obtain ⟨r, hr⟩ := step_of_concerns_none hrst hc
      cases (hr s rest hin).symm.trans h
      cases (hr s' rest hin').symm.trans h'
      exact ⟨rfl, hsst⟩
    · obtain ⟨f, _, hf⟩ := step_of_concerns_some hc
      cases (hf s rest hin).symm.trans h
      cases (hf s' rest hin').symm.trans h'
      simp [hsst]

/-- Settles O53, by induction on the number of steps. -/
theorem responsesAreNotRemembered : Obligations.ResponsesAreNotRemembered := by
  intro k
  induction k with
  | zero =>
    intro s s' hsst hinputs
    refine ⟨rfl, fun t t' h h' => ?_⟩
    cases h
    cases h'
    exact ⟨hsst, hinputs⟩
  | succ k ih =>
    intro s s' hsst hinputs
    obtain ⟨u, hu⟩ := exists_step_next s
    obtain ⟨u', hu'⟩ := exists_step_next s'
    obtain ⟨hrsp, hsst'⟩ := step_congr hsst hinputs hu hu'
    have hinputs' : u.inputs = u'.inputs := by rw [step_inputs hu, step_inputs hu', hinputs]
    rw [observe_succ hu, observe_succ hu', run_succ hu, run_succ hu', hrsp]
    exact (ih u u' hsst' hinputs').imp_left (congrArg _)

theorem Cycle.touches_iff {x : StationId} {c : Cycle} :
    c.touches x = true ↔ c.rst = true ∨ ∃ n, c.concerns = some (x, n) := by
  simp [Cycle.touches]

/-- R26: a cycle that does not touch a station leaves its entry. -/
theorem step_entry_of_not_touches {s t : State} {c : Cycle} {rest : List Cycle} {x : StationId}
    (hin : s.inputs = c :: rest) (hx : c.touches x = false) (h : step s = .next t) : t.entry x = s.entry x := by
  rcases step_entry_cases h x with ⟨c', hhead, hrst, _⟩ | hkept | ⟨c', n, hhead, hc, _⟩
  · obtain rfl : c = c' := by simpa [hin] using hhead
    simp [Cycle.touches_iff.mpr (.inl hrst)] at hx
  · exact hkept
  · obtain rfl : c = c' := by simpa [hin] using hhead
    simp [Cycle.touches_iff.mpr (.inr ⟨n, hc⟩)] at hx

/-- R26: a cycle that touches a station gives the same answer and the same entry in any two states that agree on the
station's entry, whatever is still to be driven. -/
theorem step_congr_of_touches {s s' t t' : State} {c : Cycle} {rest rest' : List Cycle} {x : StationId}
    (hin : s.inputs = c :: rest) (hin' : s'.inputs = c :: rest') (hx : c.touches x = true)
    (hentry : s.entry x = s'.entry x) (h : step s = .next t) (h' : step s' = .next t') :
    t.rsp = t'.rsp ∧ t.entry x = t'.entry x := by
  rcases Cycle.touches_iff.mp hx with hrst | ⟨n, hc⟩
  · cases (step_reset hin hrst).symm.trans h
    cases (step_reset hin' hrst).symm.trans h'
    exact ⟨rfl, rfl⟩
  · obtain ⟨f, _, hf⟩ := step_of_concerns_some hc
    cases (hf s rest hin).symm.trans h
    cases (hf s' rest' hin').symm.trans h'
    exact (ringClassify_congr n hentry).imp_left (congrArg f)

/-- R26, R52: a run of given cycles and a run of those that touch a station, from states that agree on the station's entry,
end with the same entry and give the same answers on the cycles that touch it. -/
theorem run_agrees_of_touches {x : StationId} {t t' : State} (cs : List Cycle) (s s' : State) (hin : s.inputs = cs)
    (hin' : s'.inputs = cs.filter (Cycle.touches x)) (hentry : s.entry x = s'.entry x)
    (hrun : run cs.length s = .next t) (hrun' : run (cs.filter (Cycle.touches x)).length s' = .next t') :
    t.entry x = t'.entry x ∧ observeFor x cs.length s = observe (cs.filter (Cycle.touches x)).length s' := by
  induction cs generalizing s s' with
  | nil =>
    cases hrun
    cases hrun'
    exact ⟨hentry, rfl⟩
  | cons c cs ih =>
    obtain ⟨u, hu⟩ := exists_step_next s
    have huin : u.inputs = cs := by rw [step_inputs hu, hin, List.tail_cons]
    rw [List.length_cons, run_succ hu] at hrun
    rw [List.length_cons, observeFor_succ hin hu]
    cases hx : c.touches x with
    | false =>
      rw [List.filter_cons_of_neg (by simp [hx])] at hin' hrun' ⊢
      exact ih u s' huin hin' ((step_entry_of_not_touches hin hx hu).trans hentry) hrun hrun'
    | true =>
      obtain ⟨u', hu'⟩ := exists_step_next s'
      rw [List.filter_cons_of_pos hx] at hin' hrun' ⊢
      have huin' : u'.inputs = cs.filter (Cycle.touches x) := by rw [step_inputs hu', hin', List.tail_cons]
      obtain ⟨hrsp, hentry'⟩ := step_congr_of_touches hin hin' hx hentry hu hu'
      rw [List.length_cons, run_succ hu'] at hrun'
      rw [List.length_cons, observe_succ hu', if_pos rfl, hrsp]
      exact (ih u u' huin huin' hentry' hrun hrun').imp_right (congrArg _)

/-- Settles O59, by induction on the pending cycles with the two runs' states general. -/
theorem stationSeesOnlyItsOwnRequests : Obligations.StationSeesOnlyItsOwnRequests :=
  fun _ s _ _ hrun hrun' => run_agrees_of_touches s.inputs s _ rfl rfl rfl hrun hrun'

/-! ### The table as data, and reset -/

theorem Memory.risesFrom_cons {lo k : Nat} {v : Byte} {m : Memory} :
    Memory.risesFrom lo ((k, v) :: m) = true ↔
      lo ≤ k ∧ k < Config.nStation ∧ Memory.risesFrom (k + 1) m = true := by
  simp [Memory.risesFrom, and_assoc]

theorem Memory.read_cons_same (k : Nat) (v : Byte) (m : Memory) : Memory.read ((k, v) :: m) k = some v := if_pos rfl

theorem Memory.read_cons_other {k a : Nat} (h : k ≠ a) (v : Byte) (m : Memory) :
    Memory.read ((k, v) :: m) a = Memory.read m a := if_neg h

/-- The first key of a rising table is the least that another, equal as a function, can have. -/
theorem Memory.head_le_of_read_eq {lo' k k' : Nat} {v v' : Byte} {m m' : Memory}
    (h' : Memory.risesFrom lo' ((k', v') :: m') = true)
    (hread : ∀ a, Memory.read ((k, v) :: m) a = Memory.read ((k', v') :: m') a) : k' ≤ k := by
  by_contra hlt
  obtain ⟨_, hk', hm'⟩ := Memory.risesFrom_cons.mp h'
  have hrises : Memory.risesFrom k' ((k', v') :: m') = true := Memory.risesFrom_cons.mpr ⟨le_rfl, hk', hm'⟩
  have hnone := Memory.read_none_below _ k' k (by omega) hrises
  rw [← hread, Memory.read_cons_same] at hnone
  cases hnone

/-- Rising tables that read alike at every key are the same list. -/
theorem Memory.risesFrom_ext {lo lo' : Nat} {m m' : Memory} (h : Memory.risesFrom lo m = true)
    (h' : Memory.risesFrom lo' m' = true) (hread : ∀ a, Memory.read m a = Memory.read m' a) : m = m' := by
  induction m generalizing lo lo' m' with
  | nil =>
    cases m' with
    | nil => rfl
    | cons p m' => simpa [Memory.read] using hread p.1
  | cons p m ih =>
    obtain ⟨k, v⟩ := p
    cases m' with
    | nil => simpa [Memory.read] using hread k
    | cons p' m' =>
      obtain ⟨k', v'⟩ := p'
      obtain rfl : k = k' := Nat.le_antisymm (Memory.head_le_of_read_eq h fun a => (hread a).symm)
        (Memory.head_le_of_read_eq h' hread)
      obtain ⟨_, _, hm⟩ := Memory.risesFrom_cons.mp h
      obtain ⟨_, _, hm'⟩ := Memory.risesFrom_cons.mp h'
      have hv := hread k
      rw [Memory.read_cons_same, Memory.read_cons_same, Option.some.injEq] at hv
      have hrest : ∀ a, Memory.read m a = Memory.read m' a := by
        intro a
        by_cases ha : k = a
        · subst ha
          rw [Memory.read_none_below m _ k k.lt_succ_self hm, Memory.read_none_below m' _ k k.lt_succ_self hm']
        · simpa only [Memory.read_cons_other ha] using hread a
      rw [hv, ih hm hm' hrest]

/-- Settles O5: every key below 256 is a station's, and no canonical table lists another. -/
theorem canonicalTablesAreEqual : Obligations.CanonicalTablesAreEqual := by
  intro m m' h h' hread
  refine Memory.risesFrom_ext h h' fun a => ?_
  by_cases ha : a < Config.nStation
  · have hstation : (BitVec.ofNat 8 a).toNat = a := Nat.mod_eq_of_lt ha
    simpa only [sstRead, hstation] using hread (BitVec.ofNat 8 a)
  · rw [Memory.read_none_from m 0 h a (by omega), Memory.read_none_from m' 0 h' a (by omega)]

/-- Settles O1: the table is the empty list, which lists no station. -/
theorem resetTableIsEmpty : Obligations.ResetTableIsEmpty :=
  ⟨fun _ => rfl, rfl, rfl⟩

/-- Settles O2: no entry and no pending cycle can break the range. -/
theorem resetMeetsInvariants : Obligations.ResetMeetsInvariants :=
  ⟨State.reset_table_wf, nofun, nofun⟩

end Sys2Proof.Machine
end

section
/-! PROOFS of the statements of spec/20_memory.md: the two primitives of the station table (R57), its canonical form along
every step (R40, R56), and the frame of the forms that store (R47, R57). -/

namespace Sys2Proof.Machine

/-- Settles O3: the four kinds of step keep the table, clear it, keep it, and classify one number in it. -/
theorem tableStaysCanonical : Obligations.TableStaysCanonical := by
  intro s t hwf hstep
  rcases step_cases s with ⟨_, e⟩ | ⟨c, rest, _, ⟨_, _, e⟩ | ⟨_, _, _, e⟩ | ⟨_, x, n, _, _, _, e⟩⟩ <;>
    cases e.symm.trans hstep
  · exact hwf
  · exact State.reset_table_wf
  · exact hwf
  · exact ringClassify_wf s.sst x n hwf

/-- No instruction changes the pending cycles, the debug output or the free-value index. -/
theorem exec_keeps_ports {i : Instr} {s t : State} (h : exec i s = .next t) :
    t.inputs = s.inputs ∧ t.dbg = s.dbg ∧ t.freeIdx = s.freeIdx := by
  rcases exec_cases i s with ⟨_, _, e⟩ | ⟨_, _, _, _, _, e⟩ <;> cases e.symm.trans h <;> exact ⟨rfl, rfl, rfl⟩

/-- An instruction that concerns no station leaves the whole table. -/
theorem exec_sst_of_concerns_none {i : Instr} {s t : State} (hi : concerns i = none) (h : exec i s = .next t) :
    t.sst = s.sst := by
  obtain ⟨r, hr⟩ := exec_of_concerns_none hi
  cases (hr s).symm.trans h
  rfl

/-- An instruction that concerns a station classifies one number of it in the table, and no more. -/
theorem exec_sst_of_concerns_some {i : Instr} {x : StationId} {n : Seq} {s t : State} (hi : concerns i = some (x, n))
    (h : exec i s = .next t) : t.sst = (ringClassify s.sst x n).1 := by
  obtain ⟨f, _, hf⟩ := exec_of_concerns_some hi
  cases (hf s).symm.trans h
  rfl

/-- Settles O37: it holds of every form, since the station that an instruction concerns is the one place it stores to. -/
theorem storingFormsFrame : Obligations.StoringFormsFrame := by
  intro i s t _ hexec
  obtain ⟨hinputs, hdbg, hfree⟩ := exec_keeps_ports hexec
  refine ⟨hinputs, hdbg, hfree, fun x n hi a ha => ?_, fun hi => ?_⟩
  · rw [exec_sst_of_concerns_some hi hexec]
    exact ringClassify_read_other s.sst x n a ha
  · have hsst := exec_sst_of_concerns_none hi hexec
    exact ⟨hsst, fun a => by rw [hsst]⟩

/-- R57: a write leaves the entry of every other station. -/
theorem sstRead_sstWrite_other (m : Memory) {x y : StationId} (n : Seq) (h : y ≠ x) :
    sstRead (sstWrite m x n) y = sstRead m y :=
  Memory.read_write_other m x.toNat y.toNat n (station_addr_ne h)

/-- Settles O6: the two primitives are read and write at the station id as the key, which differs between stations. -/
theorem tablePrimitivesReadAndWrite : Obligations.TablePrimitivesReadAndWrite :=
  fun m x _ n => ⟨sstRead_sstWrite_same m x n, sstRead_sstWrite_other m n⟩

end Sys2Proof.Machine
end

section
/-! PROOFS of the statements of spec/30_encoding.md: the frame on the bus (R45, R61, R62, R64, R65), the request ports and
the words that stand for them (R70, R71), and the indicators of a response (R72, R73). -/

namespace Sys2Proof.Machine

/-! ### The frame on the bus -/

/-- R45: the slices of a bus, put together again, are the bus. -/
theorem framePort_bytesOfBus (f : FrameBus) : framePort (bytesOfBus f) = f := by
  have hf := f.isLt
  apply BitVec.eq_of_toNat_eq
  change (busOfBytes (f.extractLsb' 48 8) (f.extractLsb' 40 8) (f.extractLsb' 32 8) (f.extractLsb' 24 8)
    (f.extractLsb' 16 8) (f.extractLsb' 8 8) (f.extractLsb' 0 8)).toNat = _
  simp only [busOfBytes_toNat, slice_toNat, Nat.reducePow]
  omega

/-- R45: the slices of the bus that carries seven bytes are the bytes. -/
theorem bytesOfBus_busOfBytes (b0 b1 b2 b3 b4 b5 b6 : Byte) :
    bytesOfBus (busOfBytes b0 b1 b2 b3 b4 b5 b6) = [b0, b1, b2, b3, b4, b5, b6] := by
  have h0 := b0.isLt
  have h1 := b1.isLt
  have h2 := b2.isLt
  have h3 := b3.isLt
  have h4 := b4.isLt
  have h5 := b5.isLt
  have h6 := b6.isLt
  simp only [bytesOfBus, List.cons.injEq, and_true, ← BitVec.toNat_inj, slice_toNat, busOfBytes_toNat, Nat.reducePow]
  omega

/-- R61 against R65: the frame of 10-bit values is the pattern of its fields. -/
theorem busOfFrame_encodeFrame_toNat (sid : StationId) (seq : Seq) (v0 v1 v2 v3 : Value) :
    busOfFrame (encodeFrame sid seq v0.toNat v1.toNat v2.toNat v3.toNat) = busOfFields sid seq v0 v1 v2 v3 := by
  apply BitVec.eq_of_toNat_eq
  rw [busOfFrame_encodeFrame, busOfBytes_toNat, busOfFields_toNat]
  simp only [lowByte_toNat, packHigh_toNat]

/-- R64, R65: each lane gives back the value that was put on it. -/
theorem laneValue_lowByte_packHigh (v0 v1 v2 v3 : Value) :
    let high := packHigh v0.toNat v1.toNat v2.toNat v3.toNat
    laneValue (lowByte v0.toNat) high 0 = v0 ∧ laneValue (lowByte v1.toNat) high 1 = v1 ∧
      laneValue (lowByte v2.toNat) high 2 = v2 ∧ laneValue (lowByte v3.toNat) high 3 = v3 := by
  have h0 := v0.isLt
  have h1 := v1.isLt
  have h2 := v2.isLt
  have h3 := v3.isLt
  simp only [← BitVec.toNat_inj, laneValue_toNat, lowByte_toNat, packHigh_toNat, slotShift, Nat.reduceMul,
    Nat.reduceSub, Nat.reducePow, Nat.div_one]
  refine ⟨?_, ?_, ?_, ?_⟩ <;> omega

/-- R61: the fields cut from the pattern of six fields are the fields. -/
theorem wireframeOfBus_busOfFields (sid : StationId) (seq : Seq) (v0 v1 v2 v3 : Value) :
    wireframeOfBus (busOfFields sid seq v0 v1 v2 v3) = .wireframe sid seq v0 v1 v2 v3 := by
  obtain ⟨h0, h1, h2, h3⟩ := laneValue_lowByte_packHigh v0 v1 v2 v3
  rw [← busOfFrame_encodeFrame_toNat, busOfFrame_encodeFrame, wireframeOfBus_busOfBytes, h0, h1, h2, h3]

/-- A frame on the bus with no operation requested decodes to the fields of its pattern (log 4). -/
theorem decodeIdle_bytesOfBus (f : FrameBus) : decodeIdle (bytesOfBus f) = .ok (wireframeOfBus f) :=
  congrArg (fun g => Except.ok (wireframeOfBus g)) (framePort_bytesOfBus f)

/-- Settles O8: the code selects each operation's constructor, and a frame is cut at the places its fields were put. -/
theorem decodeOfEncodeIsIdentity : Obligations.DecodeOfEncodeIsIdentity := by
  intro i
  cases i with
  | encode => rfl
  | decode => rfl
  | classify => rfl
  | receive => rfl
  | wireframe sid seq v0 v1 v2 v3 =>
    exact (decodeIdle_bytesOfBus _).trans (congrArg _ (wireframeOfBus_busOfFields sid seq v0 v1 v2 v3))

/-- Settles O12: the pattern's slices against R64's formula, and the pattern as one number against R65's. -/
theorem framePatternAgreesWithFormulas : Obligations.FramePatternAgreesWithFormulas :=
  ⟨wireframeOfBus_busOfBytes, busOfFrame_encodeFrame_toNat⟩

/-- Settles O18: the frame is `encodeFrame`'s, with each lane's byte and the packed pairs as numbers. -/
theorem encodeGivesFrame : Obligations.EncodeGivesFrame := fun sid seq v0 v1 v2 v3 s =>
  ⟨encodeFrame sid seq v0 v1 v2 v3, exec_encode sid seq v0 v1 v2 v3 s, rfl, rfl, lowByte_toNat v0, lowByte_toNat v1,
    lowByte_toNat v2, lowByte_toNat v3, packHigh_toNat v0 v1 v2 v3⟩

/-- Settles O19: the packet is `decodeFrame`'s, with each lane's value as a number. -/
theorem decodeGivesPacket : Obligations.DecodeGivesPacket := fun b0 b1 b2 b3 b4 b5 b6 s =>
  ⟨decodeFrame #v[b0, b1, b2, b3, b4, b5, b6], exec_decode_seven b0 b1 b2 b3 b4 b5 b6 s, rfl, rfl, laneValue_toNat b2 b6 0,
    laneValue_toNat b3 b6 1, laneValue_toNat b4 b6 2,
    (laneValue_toNat b5 b6 3).trans (by rw [slotShift, Nat.pow_zero, Nat.div_one])⟩

/-- R62: a slot of two bits that holds a value's high pair holds the value's bits 9 and 8. -/
theorem slot_bits {b : Byte} {shift v : Nat} (h : b.toNat / 2 ^ shift % 4 = v / 256 % 4) :
    b.getLsbD (shift + 1) = v.testBit 9 ∧ b.getLsbD shift = v.testBit 8 := by
  simp only [BitVec.getLsbD, Nat.testBit_eq_decide_div_mod_eq, decide_eq_decide, Nat.pow_succ, ← Nat.div_div_eq_div_mul]
  omega

/-- Settles O25: `packHigh` weighs the four pairs by 64, 16, 4 and 1, so each stands alone in its slot. -/
theorem slotOfEachValueInByteSix : Obligations.SlotOfEachValueInByteSix := by
  intro sid seq v0 v1 v2 v3 b6
  have hb6 : b6.toNat = _ := packHigh_toNat v0 v1 v2 v3
  exact ⟨⟨rfl, rfl, rfl, rfl⟩, slot_bits (shift := 6) (by omega), slot_bits (shift := 4) (by omega),
    slot_bits (shift := 2) (by omega), slot_bits (shift := 0) (by omega)⟩

/-! ### The request ports -/

section
variable {r : Request}

/-- R71: what each of the four codes selects, and the ports it reads. -/
theorem decode_of_encode_code (hvalid : r.valid = true) (hop : r.op = 0b00#2) :
    decode r = .ok (.encode r.station r.seq r.val0 r.val1 r.val2 r.val3) := by
  simp [decode, hvalid, hop]

theorem decode_of_decode_code (hvalid : r.valid = true) (hop : r.op = 0b01#2) : decode r = .ok (.decode r.buf) := by
  simp [decode, hvalid, hop]

theorem decode_of_classify_code (hvalid : r.valid = true) (hop : r.op = 0b10#2) :
    decode r = .ok (.classify r.station r.seq) := by
  simp [decode, hvalid, hop]

theorem decode_of_receive_code (hvalid : r.valid = true) (hop : r.op = 0b11#2) : decode r = .ok (.receive r.buf) := by
  simp [decode, hvalid, hop]

end

/-- Settles O11: under each code both requests decode to the constructor applied to the ports that the code reads. -/
theorem unusedPortsAreIgnored : Obligations.UnusedPortsAreIgnored := by
  intro r r' hvalid hvalid' hcode
  refine ⟨fun hop hstation hseq h0 h1 h2 h3 => ?_, fun hop hbuf => ?_, fun hop hstation hseq => ?_⟩
  · rw [decode_of_encode_code hvalid hop, decode_of_encode_code hvalid' (hcode ▸ hop), hstation, hseq, h0, h1, h2, h3]
  · rcases hop with hop | hop
    · rw [decode_of_decode_code hvalid hop, decode_of_decode_code hvalid' (hcode ▸ hop), hbuf]
    · rw [decode_of_receive_code hvalid hop, decode_of_receive_code hvalid' (hcode ▸ hop), hbuf]
  · rw [decode_of_classify_code hvalid hop, decode_of_classify_code hvalid' (hcode ▸ hop), hstation, hseq]

/-- D9: a buffer of at most 7 bytes stands on `req_len` with its own length, LW at least 3. -/
theorem lenPort_toNat {w : Config.Widths} (hw : Config.widthsOk w = true) {buf : Buffer} (h : buf.length ≤ 7) :
    (lenPort buf w).toNat = buf.length := by
  simp only [Config.widthsOk, Bool.and_eq_true, decide_eq_true_eq] at hw
  have hpow : 2 ^ 3 ≤ 2 ^ w.lw := Nat.pow_le_pow_right (by decide) hw.2
  have hlt : buf.length < 2 ^ w.lw := by omega
  rw [lenPort, if_pos hlt, BitVec.toNat_ofNat, Nat.mod_eq_of_lt hlt]

/-- R70: a buffer of at most 7 bytes is whole on `req_len` and `req_frame`. -/
theorem bufferOfPorts_framePort {buf : Buffer} (h : buf.length ≤ 7) : bufferOfPorts buf.length (framePort buf) = buf := by
  have hbus : bytesOfBus (framePort buf) = (List.range 7).map (buf.getD · 0) := bytesOfBus_busOfBytes ..
  rw [bufferOfPorts, hbus, Nat.sub_eq_zero_of_le h, List.replicate_zero, List.append_nil,
    ← List.map_take, List.take_range, Nat.min_eq_left h]
  exact List.ext_getElem (by simp) fun i _ hi => by simp [hi]

/-- R7: a value that fits its port is whole on it. -/
theorem valuePort_toNat {w : Config.Widths} {v : ValueIn} (h : valueFits v w = true) :
    (BitVec.ofNat w.vw v).toNat = v := by
  rw [BitVec.toNat_ofNat, Nat.mod_eq_of_lt (of_decide_eq_true h)]

/-- The requests that the port word carries whole: presented, with values that fit and a buffer of at most 7 bytes. -/
structure FitsPortWord (r : Request) (w : Config.Widths) : Prop where
  valid : r.valid = true
  val0 : valueFits r.val0 w = true
  val1 : valueFits r.val1 w = true
  val2 : valueFits r.val2 w = true
  val3 : valueFits r.val3 w = true
  buf : r.buf.length ≤ Config.frameBytes

/-- The low part of a concatenation, at a place that comes to 0. -/
theorem append_slice_at {a b k : Nat} (x : BitVec a) (y : BitVec b) (h : k = 0) : (x ++ y).extractLsb' k b = y := by
  rw [h, append_slice_low]

/-- A slice of a concatenation at a place in the upper part. -/
theorem append_slice_above {a b k : Nat} (x : BitVec a) (y : BitVec b) (n : Nat) (h : b ≤ k) :
    (x ++ y).extractLsb' k n = x.extractLsb' (k - b) n := by
  rw [← append_slice_high x y, Nat.add_sub_cancel' h]

/-- The whole of a word, at a place that comes to 0. -/
theorem slice_whole {a k : Nat} (x : BitVec a) (h : k = 0) : x.extractLsb' k a = x := by
  rw [h, BitVec.extractLsb'_eq_self]

/-- Log 6: the request that a port word presents is the one that the word was put together from. -/
theorem requestOfWord_portWord {r : Request} {w : Config.Widths} (hw : Config.widthsOk w = true) (hr : FitsPortWord r w) :
    requestOfWord (portWord r w) = r := by
  obtain ⟨hvalid, h0, h1, h2, h3, hbuf⟩ := hr
  have hlen := lenPort_toNat hw hbuf
  simp (disch := omega) only [requestOfWord, portWord, append_slice_above, append_slice_at, slice_whole,
    valuePort_toNat h0, valuePort_toNat h1, valuePort_toNat h2, valuePort_toNat h3, hlen, bufferOfPorts_framePort hbuf,
    ← hvalid]

/-- An operation that the port word carries whole presents a request that it carries whole. -/
theorem fitsPortWord_encode {w : Config.Widths} {i : Instr} (h : onPortWord w i = true) : FitsPortWord (encode i) w := by
  have hzero : valueFits 0 w = true := decide_eq_true (Nat.two_pow_pos w.vw)
  cases i with
  | encode =>
    simp only [onPortWord, Bool.and_eq_true] at h
    obtain ⟨⟨⟨h0, h1⟩, h2⟩, h3⟩ := h
    exact ⟨rfl, h0, h1, h2, h3, Nat.zero_le 7⟩
  | decode => exact ⟨rfl, hzero, hzero, hzero, hzero, of_decide_eq_true h⟩
  | classify => exact ⟨rfl, hzero, hzero, hzero, hzero, Nat.zero_le 7⟩
  | receive => exact ⟨rfl, hzero, hzero, hzero, hzero, of_decide_eq_true h⟩
  | wireframe => nomatch h

/-- An operation is decoded from its port word, at all legal widths. -/
theorem decode_portWord {w : Config.Widths} {i : Instr} (hw : Config.widthsOk w = true) (hi : onPortWord w i = true) :
    decode (requestOfWord (portWord (encode i) w)) = .ok i := by
  rw [requestOfWord_portWord hw (fitsPortWord_encode hi), decodeOfEncodeIsIdentity]

/-- A word of the whole port word's 160 bits presents the port word's request. -/
theorem requestOfTableWord_portWord (r : Request) :
    requestOfTableWord 160 (portWord r).toNat = requestOfWord (portWord r) := by
  have hlt : (portWord r).toNat < 2 ^ 160 := (portWord r).isLt
  rw [requestOfTableWord, if_neg (by decide), Nat.mod_eq_of_lt hlt, BitVec.ofNat_toNat, BitVec.setWidth_eq]

/-- A word of 56 bits presents the frame with no operation requested, as WIREFRAME does. -/
theorem requestOfTableWord_busOfFields (sid : StationId) (seq : Seq) (v0 v1 v2 v3 : Value) :
    requestOfTableWord 56 (busOfFields sid seq v0 v1 v2 v3).toNat = encode (.wireframe sid seq v0 v1 v2 v3) := by
  rw [requestOfTableWord, if_pos rfl, BitVec.ofNat_toNat, BitVec.setWidth_eq, encode]

/-- Settles O9: each word presents the instruction's own request, which decodes to the instruction (O8). -/
theorem tableWordOfInstructionDecodes : Obligations.TableWordOfInstructionDecodes := by
  refine ⟨fun w i hw hi => decode_portWord hw hi, fun i hi => ?_, fun sid seq v0 v1 v2 v3 => ?_⟩
  · rw [decodeTableWord, requestOfTableWord_portWord, decode_portWord (by decide) hi]
    rfl
  · rw [decodeTableWord, requestOfTableWord_busOfFields, decodeOfEncodeIsIdentity]
    rfl

/-- Settles O10: the six words, run through the decoder. -/
theorem writtenWordsDecode : Obligations.WrittenWordsDecode := by
  unfold Obligations.WrittenWordsDecode
  decide

/-! ### Cycles with no operation requested -/

/-- Settles O14: such a step is the no-operation, which keeps the table and shows no response. -/
theorem idleCycleChangesNothing : Obligations.IdleCycleChangesNothing :=
  fun s c rest hin hrst hvalid => ⟨(s.beginCycle c rest).idle, step_of_no_request hin hrst hvalid, rfl, rfl, rfl, rfl⟩

/-- Settles O28: WIREFRAME's arm is `idle`. -/
theorem wireframeIsNoOperation : Obligations.WireframeIsNoOperation := exec_wireframe

/-! ### The outputs of a response -/

/-- Settles O54: each outcome is a response of one constructor, whose indicator bits compute. -/
theorem indicatorsOfEachOutcome : Obligations.IndicatorsOfEachOutcome := by
  intro i s t hexec o
  refine ⟨?encode, ?decode, ?classify, ?receive, ?malformed⟩
  case encode =>
    rintro sid seq v0 v1 v2 v3 rfl
    cases (exec_encode sid seq v0 v1 v2 v3 s).symm.trans hexec
    exact ⟨rfl, rfl, rfl, rfl, rfl⟩
  case decode =>
    rintro _ rfl hlen
    obtain ⟨b0, b1, b2, b3, b4, b5, b6, rfl⟩ := buffer_of_length_seven hlen
    cases (exec_decode_seven b0 b1 b2 b3 b4 b5 b6 s).symm.trans hexec
    exact ⟨rfl, rfl, rfl, rfl, rfl⟩
  case classify =>
    rintro st n rfl
    cases (exec_classify st n s).symm.trans hexec
    exact ⟨rfl, rfl, rfl, rfl, rfl⟩
  case receive =>
    rintro _ rfl hlen
    obtain ⟨b0, b1, b2, b3, b4, b5, b6, rfl⟩ := buffer_of_length_seven hlen
    cases (exec_receive_seven b0 b1 b2 b3 b4 b5 b6 s).symm.trans hexec
    exact ⟨rfl, rfl, rfl, rfl, rfl⟩
  case malformed =>
    intro buf hi hlen
    have hraise : exec i s = .next s.raiseMalformedFrame := by
      rcases hi with rfl | rfl
      · exact exec_decode_malformed hlen s
      · exact exec_receive_malformed hlen s
    cases hraise.symm.trans hexec
    exact ⟨rfl, rfl, rfl, rfl, rfl⟩

/-- R73: a response with a decision shows the decision's code. -/
theorem outPins_rspDecision {s : State} {d : Decision} (h : s.rsp.decision? = some d) :
    s.outPins.rspDecision = decisionCode d := by
  simp only [State.outPins, dataOut, h]

theorem decisionCode_ne_three (d : Decision) : decisionCode d ≠ 0b11#2 := by
  cases d <;> decide

/-- Settles O55: the output is the decision's code, which is never the fourth. -/
theorem decisionCodesOnPins : Obligations.DecisionCodesOnPins := by
  refine fun s => ⟨outPins_rspDecision, outPins_rspDecision, outPins_rspDecision, fun hshown => ?_⟩
  obtain ⟨d, hd⟩ := Option.ne_none_iff_exists'.mp hshown
  rw [outPins_rspDecision hd]
  exact decisionCode_ne_three d

section
variable {w : Config.Widths} {p : InPins w}

theorem busOut_of_not_valid {n : Nat} (v : BitVec n) (port : Config.OutPort) (k : Nat) :
    p.busOut false v port k = Config.freePort port k n := by
  rw [InPins.busOut, Bool.and_false, if_neg Bool.false_ne_true]

/-- R70, R94: with `req_len` not 7, an operation that takes a buffer gives no frame, no packet and no decision. -/
theorem gives_nothing_of_wrong_length (htakes : p.takesBuffer = true) (hlen : p.reqLen ≠ 7) :
    (p.reqOp == 0b00#2) = false ∧ p.givesPacket = false ∧ p.givesDecision = false := by
  have hlenOk : p.lenOk = false := beq_false_of_ne hlen
  have hop : p.reqOp = 0b01#2 ∨ p.reqOp = 0b11#2 := by simpa [InPins.takesBuffer] using htakes
  simp only [InPins.givesPacket, InPins.givesDecision, hlenOk, Bool.and_false, Bool.or_false]
  rcases hop with hop | hop <;> simp [hop]

end

/-- Settles O57: with nothing given every data output is free and the table stays, and what is left reads neither the frame
bus nor an operand port. -/
theorem framePinsIgnoredUnlessLengthSeven : Obligations.FramePinsIgnoredUnlessLengthSeven := by
  intro w p m k f st n v0 v1 v2 v3 htakes hlen q
  obtain ⟨hframe, hpacket, hdecision⟩ := gives_nothing_of_wrong_length htakes hlen
  obtain ⟨hframe', hpacket', hdecision'⟩ := gives_nothing_of_wrong_length (p := q) htakes hlen
  simp only [pinOutputs, pinNextTable, hframe, hpacket, hdecision, hframe', hpacket', hdecision', busOut_of_not_valid,
    Bool.and_false, Bool.false_and]
  exact ⟨rfl, rfl⟩

end Sys2Proof.Machine
end

section
/-! PROOFS of the statements of spec/40_codec.md: what reaches ENCODE's frame (R91), the two round trips (R95, R96), the
length error (R97), the lanes (R99), and that both operations answer from their operands alone (R92, R98). -/

namespace Sys2Proof.Machine

/-! ### Lanes and frames -/

/-- R64: lane `i`'s value is its slot of the high byte and its own byte. -/
theorem laneValue_toNat_slot (low hi : Byte) (i : Nat) :
    (laneValue low hi i).toNat = (hi.extractLsb' (slotShift i) 2).toNat * 256 + low.toNat := by
  simp only [laneValue_toNat, slice_toNat, Nat.reducePow]

/-- R99: lane `i`'s value depends on its byte and its slot alone. -/
theorem laneValue_congr {low low' hi hi' : Byte} (i : Nat) (hlow : low = low')
    (hslot : hi.extractLsb' (slotShift i) 2 = hi'.extractLsb' (slotShift i) 2) :
    laneValue low hi i = laneValue low' hi' i :=
  BitVec.eq_of_toNat_eq (by rw [laneValue_toNat_slot, laneValue_toNat_slot, hlow, hslot])

/-- R99: each slot of the packed byte holds the high pair of its own value. -/
theorem packHigh_slots (v0 v1 v2 v3 : ValueIn) :
    let hi := packHigh v0 v1 v2 v3
    (hi.extractLsb' 6 2).toNat = v0 / 256 % 4 ∧ (hi.extractLsb' 4 2).toNat = v1 / 256 % 4 ∧
      (hi.extractLsb' 2 2).toNat = v2 / 256 % 4 ∧ (hi.extractLsb' 0 2).toNat = v3 / 256 % 4 := by
  simp only [slice_toNat, packHigh_toNat, Nat.reducePow]
  omega

/-- R96: a lane's low byte is the byte it was read from. -/
theorem lowByte_laneValue (low hi : Byte) (i : Nat) : lowByte (laneValue low hi i).toNat = low := by
  have hlow := low.isLt
  apply BitVec.eq_of_toNat_eq
  rw [lowByte_toNat, laneValue_toNat]
  omega

/-- R96: the high pairs of the four lanes, packed, are the byte they were read from. -/
theorem packHigh_laneValue (b2 b3 b4 b5 hi : Byte) :
    packHigh (laneValue b2 hi 0).toNat (laneValue b3 hi 1).toNat (laneValue b4 hi 2).toNat (laneValue b5 hi 3).toNat
      = hi := by
  have h2 := b2.isLt
  have h3 := b3.isLt
  have h4 := b4.isLt
  have h5 := b5.isLt
  have hhi := hi.isLt
  apply BitVec.eq_of_toNat_eq
  simp only [packHigh_toNat, laneValue_toNat, slotShift, Nat.reduceMul, Nat.reduceSub, Nat.reducePow, Nat.div_one]
  omega

/-- R64: the packet of seven bytes. -/
theorem decodeFrame_bytes (b0 b1 b2 b3 b4 b5 b6 : Byte) :
    decodeFrame #v[b0, b1, b2, b3, b4, b5, b6] =
      ⟨b0, b1, #v[laneValue b2 b6 0, laneValue b3 b6 1, laneValue b4 b6 2, laneValue b5 b6 3]⟩ := rfl

/-- R96: the frame of a frame's packet is the frame. -/
theorem encodeFrame_decodeFrame (b0 b1 b2 b3 b4 b5 b6 : Byte) :
    let p := decodeFrame #v[b0, b1, b2, b3, b4, b5, b6]
    encodeFrame p.stationId p.sequenceNumber p.values[0].toNat p.values[1].toNat p.values[2].toNat p.values[3].toNat
      = #v[b0, b1, b2, b3, b4, b5, b6] := by
  change encodeFrame b0 b1 (laneValue b2 b6 0).toNat (laneValue b3 b6 1).toNat (laneValue b4 b6 2).toNat
    (laneValue b5 b6 3).toNat = _
  simp only [encodeFrame, lowByte_laneValue, packHigh_laneValue]

/-- R95: the packet of the frame of 10-bit values has the operands as its fields. -/
theorem decodeFrame_encodeFrame (sid : StationId) (seq : Seq) (v0 v1 v2 v3 : Value) :
    decodeFrame (encodeFrame sid seq v0.toNat v1.toNat v2.toNat v3.toNat) = ⟨sid, seq, #v[v0, v1, v2, v3]⟩ := by
  obtain ⟨h0, h1, h2, h3⟩ := laneValue_lowByte_packHigh v0 v1 v2 v3
  rw [encodeFrame, decodeFrame_bytes, h0, h1, h2, h3]

/-- R91: the frame of any values is the frame of the 10-bit values they truncate to. -/
theorem encodeFrame_ofNat (sid : StationId) (seq : Seq) (v0 v1 v2 v3 : ValueIn) :
    encodeFrame sid seq v0 v1 v2 v3 =
      encodeFrame sid seq (v0 : Value).toNat (v1 : Value).toNat (v2 : Value).toNat (v3 : Value).toNat := by
  have htrunc (v : Nat) : v % 1024 = (BitVec.ofNat 10 v).toNat % 1024 := (Nat.mod_mod v 1024).symm
  exact encodeFrame_congr sid seq (htrunc v0) (htrunc v1) (htrunc v2) (htrunc v3)

/-! ### ENCODE and DECODE -/

/-- R91: ENCODE's answer depends on the low 10 bits of each value alone. -/
theorem exec_encode_congr (sid : StationId) (seq : Seq) {v0 v1 v2 v3 u0 u1 u2 u3 : ValueIn} (s : State)
    (h0 : v0 % 1024 = u0 % 1024) (h1 : v1 % 1024 = u1 % 1024) (h2 : v2 % 1024 = u2 % 1024) (h3 : v3 % 1024 = u3 % 1024) :
    exec (.encode sid seq v0 v1 v2 v3) s = exec (.encode sid seq u0 u1 u2 u3) s := by
  rw [exec_encode, exec_encode, encodeFrame_congr sid seq h0 h1 h2 h3]

/-- DECODE of a frame's seven bytes answers its packet. -/
theorem exec_decode_encodeFrame (sid : StationId) (seq : Seq) (v0 v1 v2 v3 : ValueIn) (s : State) :
    exec (.decode (encodeFrame sid seq v0 v1 v2 v3).toList) s =
      .next (s.respond (.packet (decodeFrame (encodeFrame sid seq v0 v1 v2 v3)))) :=
  exec_decode_seven sid seq (lowByte v0) (lowByte v1) (lowByte v2) (lowByte v3) (packHigh v0 v1 v2 v3) s

/-- R72, R97: a response without a packet leaves every packet output unspecified. -/
theorem outPins_of_no_packet {s : State} (h : s.rsp.packet? = none) :
    s.outPins.rspStation = Config.freePort .station s.freeIdx 8 ∧
      s.outPins.rspSeq = Config.freePort .seq s.freeIdx 8 ∧
      s.outPins.rspVal0 = Config.freePort .val0 s.freeIdx 10 ∧
      s.outPins.rspVal1 = Config.freePort .val1 s.freeIdx 10 ∧
      s.outPins.rspVal2 = Config.freePort .val2 s.freeIdx 10 ∧
      s.outPins.rspVal3 = Config.freePort .val3 s.freeIdx 10 := by
  simp only [State.outPins, h, dataOut_none, and_self]

/-- Settles O20: the step raises the error, a response that has no packet to show. -/
theorem decodeOfWrongLengthIsMalformed : Obligations.DecodeOfWrongLengthIsMalformed := fun _ s hlen =>
  ⟨s.raiseMalformedFrame, exec_decode_malformed hlen s, rfl, rfl, rfl, rfl, outPins_of_no_packet rfl⟩

/-- Settles O21: each pair of operands agrees mod 1024, whether equal, reduced, or carried by ports of two widths. -/
theorem encodeTruncatesValues : Obligations.EncodeTruncatesValues := by
  refine ⟨fun _ _ sid seq _ _ _ _ _ _ _ _ s _ _ h0 h1 h2 h3 => exec_encode_congr sid seq s h0 h1 h2 h3, ?_⟩
  rintro sid seq v0 v1 v2 v3 _ _ _ _ s rfl rfl rfl rfl
  have hmod (v : Nat) : v % 1024 = v % 1024 % 1024 := (Nat.mod_mod v 1024).symm
  exact ⟨exec_encode_congr sid seq s (hmod v0) (hmod v1) (hmod v2) (hmod v3),
    exec_encode_congr sid seq s (hmod v0) rfl rfl rfl, exec_encode_congr sid seq s rfl (hmod v1) rfl rfl,
    exec_encode_congr sid seq s rfl rfl (hmod v2) rfl, exec_encode_congr sid seq s rfl rfl rfl (hmod v3)⟩

/-- Settles O22: the frame is that of the truncated values, and the packet of that frame holds them. -/
theorem decodeOfEncodedFrame : Obligations.DecodeOfEncodedFrame := by
  intro sid seq v0 v1 v2 v3 s
  have hpacket : decodeFrame (encodeFrame sid seq v0 v1 v2 v3) = ⟨sid, seq, #v[(v0 : Value), v1, v2, v3]⟩ := by
    rw [encodeFrame_ofNat, decodeFrame_encodeFrame]
  refine ⟨encodeFrame sid seq v0 v1 v2 v3, ⟨sid, seq, #v[(v0 : Value), v1, v2, v3]⟩, exec_encode sid seq v0 v1 v2 v3 s, ?_,
    rfl, rfl, BitVec.toNat_ofNat v0 10, BitVec.toNat_ofNat v1 10, BitVec.toNat_ofNat v2 10, BitVec.toNat_ofNat v3 10⟩
  rw [exec_decode_encodeFrame, hpacket]
  rfl

/-- Settles O23: the buffer is a frame's seven bytes, and the frame of that frame's packet is the frame. -/
theorem encodeOfDecodedPacket : Obligations.EncodeOfDecodedPacket := by
  intro buf s hlen
  obtain ⟨b0, b1, b2, b3, b4, b5, b6, rfl⟩ := buffer_of_length_seven hlen
  exact ⟨decodeFrame #v[b0, b1, b2, b3, b4, b5, b6], _, exec_decode_seven b0 b1 b2 b3 b4 b5 b6 s,
    exec_encode _ _ _ _ _ _ s, congrArg Vector.toList (encodeFrame_decodeFrame b0 b1 b2 b3 b4 b5 b6)⟩

/-- Settles O24: a slot of the packed byte is one value's high pair, and a lane's value is one slot and one byte. -/
theorem lanesAreIndependent : Obligations.LanesAreIndependent := by
  refine ⟨?encode, fun f g => ⟨laneValue_congr 0, laneValue_congr 1, laneValue_congr 2, laneValue_congr 3⟩⟩
  intro sid sid' seq seq' v0 v1 v2 v3 u0 u1 u2 u3 f g
  obtain ⟨hv0, hv1, hv2, hv3⟩ := packHigh_slots v0 v1 v2 v3
  obtain ⟨hu0, hu1, hu2, hu3⟩ := packHigh_slots u0 u1 u2 u3
  refine ⟨?_, ?_, ?_, ?_⟩ <;> rintro rfl
  · exact ⟨rfl, BitVec.eq_of_toNat_eq (hv0.trans hu0.symm)⟩
  · exact ⟨rfl, BitVec.eq_of_toNat_eq (hv1.trans hu1.symm)⟩
  · exact ⟨rfl, BitVec.eq_of_toNat_eq (hv2.trans hu2.symm)⟩
  · exact ⟨rfl, BitVec.eq_of_toNat_eq (hv3.trans hu3.symm)⟩

/-- Settles O26: ENCODE answers its frame; DECODE answers its packet or the error, as the length says. -/
theorem codecIsPure : Obligations.CodecIsPure := by
  refine ⟨fun sid seq v0 v1 v2 v3 => ⟨_, exec_encode sid seq v0 v1 v2 v3⟩, fun buf => ?_⟩
  rcases buffer_cases buf with ⟨b0, b1, b2, b3, b4, b5, b6, rfl⟩ | hlen
  · exact ⟨_, exec_decode_seven b0 b1 b2 b3 b4 b5 b6⟩
  · exact ⟨_, exec_decode_malformed hlen⟩

end Sys2Proof.Machine
end

section
/-! PROOFS of the statements of spec/41_sequence_validator.md: the ring's arithmetic (R122, R128, R129), the arms of CLASSIFY
(R120 to R127), and what they entail for repeats, for the half ring and for replays (R131 to R134). -/

namespace Sys2Proof.Machine

/-! ### Distances on the ring -/

/-- R123: ring values at distance 0 are equal. -/
theorem forwardDistance_eq_zero_iff {n last : Seq} (hn : n.toNat ≤ 254) (hlast : last.toNat ≤ 254) :
    forwardDistance n last = 0 ↔ n = last := by
  rw [forwardDistance_eq, ← BitVec.toNat_inj]
  omega

/-- R129: the distance by the sign of the difference, with 255 from 0 at distance 0. -/
theorem forwardDistance_by_cases (n last : Seq) :
    (forwardDistance n last : Int) =
      if (n.toNat : Int) - last.toNat < 0 then (n.toNat : Int) - last.toNat + 255
      else if (n.toNat : Int) - last.toNat = 255 then 0
      else (n.toNat : Int) - last.toNat := by
  have hn := n.isLt
  have hlast := last.isLt
  rw [forwardDistance_eq]
  split_ifs <;> omega

/-- R125: the way back is what is left of the ring. -/
theorem forwardDistance_swap {n last : Seq} (h : 1 ≤ forwardDistance n last) :
    forwardDistance last n = 255 - forwardDistance n last := by
  have hn := n.isLt
  have hlast := last.isLt
  rw [forwardDistance_eq] at h ⊢
  rw [forwardDistance_eq]
  omega

/-- R132: a ring value is `k` steps ahead exactly when its distance is `k`. -/
theorem eq_ringAhead_iff {n last : Seq} {k : Nat} (hn : n.toNat ≤ 254) (hk : k ≤ 254) :
    n = ringAhead last k ↔ forwardDistance n last = k := by
  have hlast := last.isLt
  rw [forwardDistance_eq, ← BitVec.toNat_inj, ringAhead, BitVec.toNat_ofNat, Config.ring]
  omega

/-- R132: a ring value is `j` steps behind exactly when its distance is what is left of the ring. -/
theorem eq_ringBehind_iff {n last : Seq} {j : Nat} (hn : n.toNat ≤ 254) (h1 : 1 ≤ j) (h2 : j ≤ 255) :
    n = ringBehind last j ↔ forwardDistance n last = 255 - j := by
  have hlast := last.isLt
  rw [forwardDistance_eq, ← BitVec.toNat_inj, ringBehind, BitVec.toNat_ofNat, Config.ring]
  omega

theorem ringBehind_le (n : Seq) (j : Nat) : (ringBehind n j).toNat ≤ 254 := by
  rw [ringBehind, BitVec.toNat_ofNat, Config.ring]
  omega

/-- Settles O29: that the distance leads from `last` to `n` makes the difference a multiple of 255. -/
theorem forwardDistanceIsRingRemainder : Obligations.ForwardDistanceIsRingRemainder := by
  intro n last
  have htravel := forwardDistance_travel n last
  exact ⟨forwardDistance_le n last, by omega, htravel⟩

/-- Settles O30: the pins' distance and the form by cases are each the distance. -/
theorem eightBitFormComputesDistance : Obligations.EightBitFormComputesDistance :=
  fun n last => ⟨pinDistance_toNat n last, forwardDistance_by_cases n last⟩

/-! ### The decision, by the entry and the distance -/

/-- R121, R124: what is accepted. -/
theorem ringClassify_accept_iff (m : Memory) (x : StationId) (n : Seq) :
    (ringClassify m x n).2 = .accept ↔ sstRead m x = none ∨
      ∃ last, sstRead m x = some last ∧ 1 ≤ forwardDistance n last ∧ forwardDistance n last ≤ 127 := by
  rcases ringClassify_cases m x n with ⟨hr, e⟩ | ⟨last, hr, hd, e⟩ | ⟨last, hr, h1, h2, e⟩ | ⟨last, hr, h1, e⟩
  · simp [e, hr]
  · simp [e, hr, hd]
  · simp [e, hr, h1, h2]
  · simp [e, hr, show 127 < forwardDistance n last from h1]

/-- R124: what is accepted of a station that is present. -/
theorem ringClassify_accept_iff_of_present {m : Memory} {x : StationId} {n last : Seq} (h : sstRead m x = some last) :
    (ringClassify m x n).2 = .accept ↔ 1 ≤ forwardDistance n last ∧ forwardDistance n last ≤ 127 := by
  simp [ringClassify_accept_iff, h]

/-- R123: what is a duplicate. -/
theorem ringClassify_rejectDuplicate_iff (m : Memory) (x : StationId) (n : Seq) :
    (ringClassify m x n).2 = .rejectDuplicate ↔ ∃ last, sstRead m x = some last ∧ forwardDistance n last = 0 := by
  rcases ringClassify_cases m x n with ⟨hr, e⟩ | ⟨last, hr, hd, e⟩ | ⟨last, hr, h1, _, e⟩ | ⟨last, hr, h1, e⟩
  · simp [e, hr]
  · simp [e, hr, hd]
  · simp [e, hr, Nat.ne_of_gt h1]
  · simp [e, hr, show forwardDistance n last ≠ 0 by omega]

/-- R125: what is stale. -/
theorem ringClassify_rejectStale_iff (m : Memory) (x : StationId) (n : Seq) :
    (ringClassify m x n).2 = .rejectStale ↔ ∃ last, sstRead m x = some last ∧ 128 ≤ forwardDistance n last := by
  rcases ringClassify_cases m x n with ⟨hr, e⟩ | ⟨last, hr, hd, e⟩ | ⟨last, hr, _, h2, e⟩ | ⟨last, hr, h1, e⟩
  · simp [e, hr]
  · simp [e, hr, hd]
  · simp [e, hr, show forwardDistance n last < 128 by omega]
  · simp [e, hr, h1]

/-- Settles O35: the answer is the classification's decision. -/
theorem classifyIsTotal : Obligations.ClassifyIsTotal := fun s st n =>
  ⟨_, (ringClassify s.sst st n).2, exec_classify st n s, rfl, ringClassify_accept_iff s.sst st n,
    ringClassify_rejectDuplicate_iff s.sst st n, ringClassify_rejectStale_iff s.sst st n⟩

/-! ### The arms of CLASSIFY -/

/-- The state after a CLASSIFY that accepts a station's number: the number is recorded and `Accept` answered (R121, R124). -/
def State.acceptNumber (s : State) (x : StationId) (n : Seq) : State :=
  { s with sst := sstWrite s.sst x n, rsp := .response (.decision .accept) }

theorem State.acceptNumber_entry (s : State) (x : StationId) (n : Seq) : (s.acceptNumber x n).entry x = some n :=
  sstRead_sstWrite_same s.sst x n

section
variable {s : State} {x : StationId} {n last : Seq}

/-- R121. -/
theorem exec_classify_first (n : Seq) (h : s.entry x = none) : exec (.classify x n) s = .next (s.acceptNumber x n) := by
  rw [exec_classify, ringClassify_first n h]
  rfl

/-- R123. -/
theorem exec_classify_duplicate (h : s.entry x = some last) (hd : forwardDistance n last = 0) :
    exec (.classify x n) s = .next { s with rsp := .response (.decision .rejectDuplicate) } := by
  rw [exec_classify, ringClassify_duplicate h hd]
  rfl

/-- R124. -/
theorem exec_classify_ahead (h : s.entry x = some last) (h1 : 1 ≤ forwardDistance n last)
    (h2 : forwardDistance n last ≤ 127) : exec (.classify x n) s = .next (s.acceptNumber x n) := by
  rw [exec_classify, ringClassify_ahead h h1 h2]
  rfl

/-- R125. -/
theorem exec_classify_stale (h : s.entry x = some last) (h1 : 128 ≤ forwardDistance n last) :
    exec (.classify x n) s = .next { s with rsp := .response (.decision .rejectStale) } := by
  rw [exec_classify, ringClassify_stale h h1]
  rfl

/-- R127: a CLASSIFY is accepted and records the number, or is rejected and changes the response alone. -/
theorem exec_classify_cases {t : State} (h : exec (.classify x n) s = .next t) :
    t = s.acceptNumber x n ∨ ∃ d, d ≠ .accept ∧ t = { s with rsp := .response (.decision d) } := by
  cases (exec_classify x n s).symm.trans h
  rcases ringClassify_table s.sst x n with ⟨hsst, hd⟩ | ⟨hsst, hd⟩ <;> rw [hsst]
  · rw [hd]
    exact .inl rfl
  · exact .inr ⟨_, hd, rfl⟩

end

theorem State.accepted_eq_false_of_decision {s : State} {d : Decision} (h : d ≠ .accept) :
    State.accepted { s with rsp := .response (.decision d) } = false := by
  simpa [State.accepted, Rsp.decision?] using h

/-- Settles O31: the answer accepts the number. -/
theorem firstRequestIsAccepted : Obligations.FirstRequestIsAccepted := fun s st n habsent =>
  ⟨s.acceptNumber st n, exec_classify_first n habsent, rfl, s.acceptNumber_entry st n, rfl⟩

/-- Settles O32: only the response is new, and bytes below 255 that agree mod 255 are equal. -/
theorem distanceZeroIsDuplicate : Obligations.DistanceZeroIsDuplicate := fun _ _ _ _ hentry =>
  ⟨exec_classify_duplicate hentry, forwardDistance_eq_zero_iff⟩

/-- Settles O33: the number is `last` plus the distance up to a multiple of 255, so itself when it is below 255. -/
theorem aheadHalfIsAccepted : Obligations.AheadHalfIsAccepted := by
  intro s st n last hentry h1 h2
  refine ⟨⟨s.acceptNumber st n, exec_classify_ahead hentry h1 h2, rfl, s.acceptNumber_entry st n, rfl⟩, fun hn _ => ?_⟩
  rw [forwardDistance_travel, Nat.mod_eq_of_lt (by omega)]

/-- Settles O34: only the response is new. -/
theorem behindHalfIsStale : Obligations.BehindHalfIsStale := fun _ _ _ _ hentry h1 _ => exec_classify_stale hentry h1

/-- Settles O36: a RECEIVE of seven bytes classifies bytes 0 and 1 in the table, and reads no more of either. -/
theorem stateChangesOnlyOnAccept : Obligations.StateChangesOnlyOnAccept := by
  refine ⟨fun s t st n hexec => ?_, fun s t u b0 b1 b2 b3 b4 b5 b6 c2 c3 c4 c5 c6 ht hu => ?_⟩
  · have hother : ∀ y, y ≠ st → t.entry y = s.entry y := fun y hy =>
      entriesAreIndependent.1 _ s t y hexec fun x k hx => by cases hx; exact hy
    rcases exec_classify_cases hexec with rfl | ⟨d, hd, rfl⟩
    · exact ⟨fun _ => s.acceptNumber_entry st n, nofun, hother⟩
    · exact ⟨fun hacc => by simp [State.accepted_eq_false_of_decision hd] at hacc, fun _ => rfl, hother⟩
  · cases (exec_receive_seven b0 b1 b2 b3 b4 b5 b6 s).symm.trans ht
    cases (exec_receive_seven b0 b1 c2 c3 c4 c5 c6 s).symm.trans hu
    exact ⟨rfl, rfl⟩

/-- Settles O41: 255 is one step ahead of 254; once it is stored, 0 is at distance 0 and 1 at distance 1. -/
theorem raw255ComparesAsZero : Obligations.Raw255ComparesAsZero := by
  refine ⟨fun x => ?_, fun s st hentry => ?_⟩
  · simp only [forwardDistance_eq, BitVec.toNat_ofNat]
    omega
  · have hstored := s.acceptNumber_entry st 255#8
    exact ⟨s.acceptNumber st 255#8, _, exec_classify_ahead hentry (by decide) (by decide), rfl, hstored,
      exec_classify_duplicate hstored (by decide), exec_classify_ahead hstored (by decide) (by decide), rfl,
      State.acceptNumber_entry _ st 1#8⟩

/-! ### Two requests in a row -/

/-- Settles O43: after an `Accept` the number is at distance 0 from itself; after a rejection the table that decided it is
still there. -/
theorem immediateRepeatIsRejected : Obligations.ImmediateRepeatIsRejected := by
  intro s t u st n hexec hexec'
  rcases exec_classify_cases hexec with rfl | ⟨d, hd, rfl⟩
  · have hdup := exec_classify_duplicate (s.acceptNumber_entry st n) (forwardDistance_self n)
    cases hdup.symm.trans hexec'
    exact ⟨rfl, rfl, fun _ => rfl, nofun⟩
  · have hsame : exec (.classify st n) { s with rsp := .response (.decision d) } = exec (.classify st n) s := rfl
    cases hexec'.symm.trans (hsame.trans hexec)
    have hrejected := State.accepted_eq_false_of_decision (s := s) hd
    exact ⟨hrejected, rfl, fun hacc => by simp [hrejected] at hacc, fun _ => rfl⟩

/-- Settles O45: `k` steps ahead is distance `k`, and `j` steps behind is distance `255 - j`. -/
theorem halfRingIsAccepted : Obligations.HalfRingIsAccepted := by
  intro s st last n hentry hlast hn
  have hread : sstRead s.sst st = some last := hentry
  refine ⟨_, exec_classify st n s, ?accept, ?duplicate, ?stale⟩ <;>
    simp only [State.respond_rsp, Rsp.response.injEq, Response.decision.injEq]
  case accept =>
    rw [ringClassify_accept_iff_of_present hread]
    constructor
    · rintro ⟨h1, h2⟩
      exact ⟨_, h1, h2, (eq_ringAhead_iff hn (forwardDistance_le n last)).mpr rfl⟩
    · rintro ⟨k, h1, h2, hk⟩
      rw [eq_ringAhead_iff hn (by omega)] at hk
      exact ⟨hk ▸ h1, hk ▸ h2⟩
  case duplicate => simp [ringClassify_rejectDuplicate_iff, hread, forwardDistance_eq_zero_iff hn hlast]
  case stale =>
    rw [ringClassify_rejectStale_iff]
    constructor
    · intro h
      have h1 : 128 ≤ forwardDistance n last := by simpa [hread] using h
      have h2 := forwardDistance_le n last
      exact ⟨255 - forwardDistance n last, by omega, by omega,
        (eq_ringBehind_iff hn (by omega) (by omega)).mpr (by omega)⟩
    · rintro ⟨j, h1, h2, hj⟩
      rw [eq_ringBehind_iff hn h1 (by omega)] at hj
      exact ⟨last, hread, by omega⟩

/-- Settles O46: the entry is the number accepted, and both what is behind it and the previous `last` are 128 or more steps
ahead of it. -/
theorem numbersBehindAcceptedAreStale : Obligations.NumbersBehindAcceptedAreStale := by
  intro s t st n _ hexec hacc
  have hafter : t.entry st = some n := (stateChangesOnlyOnAccept.1 s t st n hexec).1 hacc
  refine ⟨fun j h1 h2 => exec_classify_stale hafter ?_, fun last hentry => exec_classify_stale hafter ?_⟩
  · have hj := (eq_ringBehind_iff (ringBehind_le n j) h1 (by omega)).mp rfl
    omega
  · cases (exec_classify st n s).symm.trans hexec
    have hd : (ringClassify s.sst st n).2 = .accept := by simpa [State.accepted, Rsp.decision?] using hacc
    obtain ⟨h1, h2⟩ := (ringClassify_accept_iff_of_present hentry).mp hd
    rw [forwardDistance_swap h1]
    omega

/-! ### Replays -/

theorem moved_of_entries {x : StationId} {s t : State} {a b : Seq} (ha : s.entry x = some a) (hb : t.entry x = some b) :
    moved x s t = forwardDistance b a := by
  simp only [moved, ha, hb]

theorem travel_succ {s t : State} (h : step s = .next t) (x : StationId) (k : Nat) :
    travel x (k + 1) s = moved x s t + travel x k t := by
  simp only [travel, h]

/-- R134: over a run without reset an entry stays, and the distance it moves in total leads from the first `last` to the
final one on the ring. -/
theorem entry_after_travel {k : Nat} {s t : State} {x : StationId} {n : Seq} (hentry : s.entry x = some n)
    (hrun : run k s = .next t) (hnoreset : ∀ c ∈ s.inputs.take k, c.rst = false) :
    ∃ last, t.entry x = some last ∧ (n.toNat + travel x k s) % 255 = last.toNat % 255 := by
  induction k generalizing s n with
  | zero =>
    cases hrun
    exact ⟨n, hentry, rfl⟩
  | succ k ih =>
    obtain ⟨v, hstep⟩ := exists_step_next s
    have hhead : ∀ c, s.inputs.head? = some c → c.rst = false := fun c hc =>
      hnoreset c (List.mem_of_head? (by simpa [List.head?_take] using hc))
    obtain ⟨a, ha⟩ := Option.ne_none_iff_exists'.mp (entryLivesUntilReset s v x hhead hstep (by simp [hentry]))
    have htail : ∀ c ∈ v.inputs.take k, c.rst = false := fun c hc => by
      rw [step_inputs hstep, ← List.drop_one, List.take_drop] at hc
      exact hnoreset c (Nat.add_comm 1 k ▸ List.mem_of_mem_drop hc)
    obtain ⟨last, hlast, htravel⟩ := ih ha (run_succ hstep k ▸ hrun) htail
    have hmoved := forwardDistance_travel a n
    refine ⟨last, hlast, ?_⟩
    rw [travel_succ hstep, moved_of_entries hentry ha]
    omega

/-- R124: a number that a cycle classifies for a present station is accepted only 1 to 127 steps ahead of `last`. -/
theorem distance_of_accepted {s t : State} {c : Cycle} {rest : List Cycle} {x : StationId} {n last : Seq}
    (hin : s.inputs = c :: rest) (hc : c.concerns = some (x, n)) (hstep : step s = .next t) (hacc : t.accepted = true)
    (hentry : s.entry x = some last) : 1 ≤ forwardDistance n last ∧ forwardDistance n last ≤ 127 := by
  obtain ⟨f, hf, hstep'⟩ := step_of_concerns_some hc
  cases (hstep' s rest hin).symm.trans hstep
  have hd : (ringClassify s.sst x n).2 = .accept := by simpa [State.accepted, hf] using hacc
  exact (ringClassify_accept_iff_of_present hentry).mp hd

/-- Settles O47: the travel leads from `n` to `last`, and at most 127 steps lead on from there to `n`, so the travel is at
least what is left of the ring. -/
theorem replayNeedsHalfRingOfTravel : Obligations.ReplayNeedsHalfRingOfTravel := by
  intro k s t u x n c rest hentry hrun hnoreset hin hc hstep hacc
  obtain ⟨last, hlast, htravel⟩ := entry_after_travel hentry hrun hnoreset
  obtain ⟨h1, h2⟩ := distance_of_accepted hin hc hstep hacc hlast
  have hback := forwardDistance_travel n last
  omega

end Sys2Proof.Machine
end

section
/-! PROOFS of the statements of spec/42_receive_path.md: RECEIVE as DECODE and then CLASSIFY (R151, R152, R153), and the debug
port (R156). -/

namespace Sys2Proof.Machine

/-! ### RECEIVE -/

/-- Settles O50: the arm of seven bytes, whose classification is the ring's. -/
theorem receiveReturnsPair : Obligations.ReceiveReturnsPair := exec_receive_seven

/-- Settles O51: seven bytes classify in the table that DECODE left alone, and any other length raises the error in both. -/
theorem receiveIsDecodeThenClassify : Obligations.ReceiveIsDecodeThenClassify := by
  intro buf s
  rcases buffer_cases buf with ⟨b0, b1, b2, b3, b4, b5, b6, rfl⟩ | hlen
  · refine ⟨_, _, exec_decode_seven b0 b1 b2 b3 b4 b5 b6 s, exec_receive_seven b0 b1 b2 b3 b4 b5 b6 s, nofun, fun p hp => ?_⟩
    cases hp
    exact ⟨_, (ringClassify s.sst b0 b1).2, exec_classify b0 b1 _, rfl, rfl⟩
  · exact ⟨_, _, exec_decode_malformed hlen s, exec_receive_malformed hlen s, fun _ => rfl, nofun⟩

/-- R151: a cycle that presents a malformed RECEIVE raises the error. -/
theorem step_receive_malformed {buf : Buffer} (hlen : buf.length ≠ 7) {s : State} {d : StationId} {rest : List Cycle}
    (hin : s.inputs = Cycle.ofInstr (.receive buf) d :: rest) :
    step s = .next (s.beginCycle (Cycle.ofInstr (.receive buf) d) rest).raiseMalformedFrame :=
  (step_exec hin rfl (decodeOfEncodeIsIdentity (.receive buf))).trans (exec_receive_malformed hlen _)

/-! ### The debug port -/

/-- R156: a driven step samples the debug station's entry as it stood before. -/
theorem step_dbg {s t : State} {c : Cycle} {rest : List Cycle} (hin : s.inputs = c :: rest) (h : step s = .next t) :
    t.dbg = some (c.dbgStation, s.entry c.dbgStation) := by
  rcases step_cases s with ⟨hnil, _⟩ | ⟨c', rest', hin', ⟨_, _, e⟩ | ⟨_, _, _, e⟩ | ⟨_, _, _, _, _, _, e⟩⟩
  · nomatch hin.symm.trans hnil
  all_goals
    cases hin.symm.trans hin'
    cases e.symm.trans h
    rfl

/-- R156: no instruction reads or changes what the debug port shows. -/
theorem exec_with_dbg {i : Instr} {s t : State} (h : exec i s = .next t) (e : Option (StationId × Option Seq)) :
    exec i { s with dbg := e } = .next { t with dbg := e } := by
  rcases hi : concerns i with _ | ⟨x, n⟩
  · obtain ⟨r, hr⟩ := exec_of_concerns_none hi
    cases (hr s).symm.trans h
    exact hr _
  · obtain ⟨f, _, hf⟩ := exec_of_concerns_some hi
    cases (hf s).symm.trans h
    exact hf _

/-- R156: another debug station changes what the debug port shows and nothing else. -/
theorem step_with_dbgStation {s t : State} {c : Cycle} {rest : List Cycle} (hin : s.inputs = c :: rest)
    (h : step s = .next t) (d : StationId) :
    step { s with inputs := { c with dbgStation := d } :: rest } = .next { t with dbg := some (d, s.entry d) } := by
  have hin' : ({ s with inputs := { c with dbgStation := d } :: rest } : State).inputs =
      { c with dbgStation := d } :: rest := rfl
  rcases c.rst.eq_false_or_eq_true with hrst | hrst
  · cases (step_reset hin hrst).symm.trans h
    exact step_reset hin' hrst
  · rcases hdec : decode c.req with ⟨⟨⟩⟩ | i
    · cases (step_idle hin hrst hdec).symm.trans h
      exact step_idle hin' hrst hdec
    · have hexec := (step_exec hin hrst hdec).symm.trans h
      exact (step_exec hin' hrst hdec).trans (exec_with_dbg hexec _)

theorem outPins_dbgPresent {s : State} {d : StationId} {e : Option Seq} (h : s.dbg = some (d, e)) :
    s.outPins.dbgPresent = e.isSome := by
  simp only [State.outPins, h]

theorem outPins_dbgLast {s : State} {d : StationId} {e : Option Seq} (h : s.dbg = some (d, e)) :
    s.outPins.dbgLast = dataOut e id .dbgLast s.freeIdx := by
  simp only [State.outPins, h, Option.bind_some]

/-- Settles O56: the port shows the sample, and the sample is all that depends on the debug station. -/
theorem debugPortShowsEntryBefore : Obligations.DebugPortShowsEntryBefore := by
  intro s t t' c rest d' hin hstep hstep'
  have hdbg := step_dbg hin hstep
  refine ⟨outPins_dbgPresent hdbg, fun n hn => ?_, fun hnone => ?_, ?_⟩
  · rw [outPins_dbgLast hdbg, hn]
    rfl
  · rw [outPins_dbgLast hdbg, hnone]
    rfl
  · cases (step_with_dbgStation hin hstep d').symm.trans hstep'
    exact ⟨rfl, rfl, rfl⟩

/-! ### The cycle after a malformed RECEIVE -/

/-- Settles O49: the error leaves the table and moves the inputs on, and the next cycle reads only these two. -/
theorem malformedReceiveChangesNothing : Obligations.MalformedReceiveChangesNothing := by
  refine fun buf s hlen => ⟨exec_receive_malformed hlen s, fun d c rest t u v hin ht hu hv => ?_⟩
  cases (step_receive_malformed hlen hin).symm.trans ht
  obtain ⟨hrsp, hsst⟩ := step_congr (by rfl) (by rfl) hu hv
  exact ⟨hsst, hrsp, (step_dbg rfl hu).trans (step_dbg rfl hv).symm, (step_inputs hu).trans (step_inputs hv).symm⟩

end Sys2Proof.Machine
end

section
/-! PROOFS of the statements of spec/60_exceptions.md: the one error has one cause (R170), and nothing is fatal
(R173). -/

namespace Sys2Proof.Machine

/-! ### The one error -/

/-- R94, R151: DECODE and RECEIVE of another length than 7 raise the error, in every state. -/
theorem exec_of_wrong_length {i : Instr} {buf : Buffer} (hi : i = .decode buf ∨ i = .receive buf) (hlen : buf.length ≠ 7)
    (s : State) : exec i s = .next s.raiseMalformedFrame := by
  rcases hi with rfl | rfl
  · exact exec_decode_malformed hlen s
  · exact exec_receive_malformed hlen s

/-- R170: every other instruction answers a result or nothing, so the error tells of a wrong length. -/
theorem wrong_length_of_exec_error {i : Instr} {s t : State} (h : exec i s = .next t)
    (hrsp : t.rsp = .response (.error .malformedFrame)) :
    ∃ buf, (i = .decode buf ∨ i = .receive buf) ∧ buf.length ≠ 7 := by
  cases i with
  | encode sid seq v0 v1 v2 v3 =>
    cases (exec_encode sid seq v0 v1 v2 v3 s).symm.trans h
    nomatch hrsp
  | decode buf =>
    rcases buffer_cases buf with ⟨b0, b1, b2, b3, b4, b5, b6, rfl⟩ | hlen
    · cases (exec_decode_seven b0 b1 b2 b3 b4 b5 b6 s).symm.trans h
      nomatch hrsp
    · exact ⟨buf, .inl rfl, hlen⟩
  | classify x n =>
    cases (exec_classify x n s).symm.trans h
    nomatch hrsp
  | receive buf =>
    rcases buffer_cases buf with ⟨b0, b1, b2, b3, b4, b5, b6, rfl⟩ | hlen
    · cases (exec_receive_seven b0 b1 b2 b3 b4 b5 b6 s).symm.trans h
      nomatch hrsp
    · exact ⟨buf, .inr rfl, hlen⟩
  | wireframe sid seq v0 v1 v2 v3 =>
    cases (exec_wireframe sid seq v0 v1 v2 v3 s).symm.trans h
    nomatch hrsp

/-- Settles O52: the error comes from a wrong length alone, and a wrong length does no more than raise it. -/
theorem malformedFrameOnlyFromLength : Obligations.MalformedFrameOnlyFromLength := by
  refine fun i s t hexec => ⟨⟨wrong_length_of_exec_error hexec, fun ⟨buf, hi, hlen⟩ => ?_⟩, fun hrsp => ?_⟩
  · cases (exec_of_wrong_length hi hlen s).symm.trans hexec
    rfl
  · obtain ⟨buf, hi, hlen⟩ := wrong_length_of_exec_error hexec hrsp
    cases (exec_of_wrong_length hi hlen s).symm.trans hexec
    exact ⟨rfl, rfl⟩

/-! ### Nothing is fatal -/

/-- R173: every instruction answers a next state, in every state. -/
theorem exists_exec_next (i : Instr) (s : State) : ∃ t, exec i s = .next t := by
  rcases exec_cases i s with ⟨_, _, e⟩ | ⟨_, _, _, _, _, e⟩ <;> exact ⟨_, e⟩

/-- Settles O17: a cycle that neither resets nor classifies a station's number does not touch its entry. -/
theorem noConditionIsFatal : Obligations.NoConditionIsFatal := by
  refine ⟨exists_step_next, exists_exec_next, fun _ => rfl, fun s t c rest x hin hrst hstep hx => ?_⟩
  have htouches : c.touches x = false := by
    simpa only [Cycle.touches, hrst, Bool.false_or, beq_eq_false_iff_ne] using hx
  exact step_entry_of_not_touches hin htouches hstep

end Sys2Proof.Machine
end

section
/-! PROOFS of the statements of spec/70_reset_and_hazards.md: reset (R200, R202), repeats (R222), and a forged number
(R212). -/

namespace Sys2Proof.Machine

/-! ### Reset -/

/-- Settles O7: the step is `resetCycle`, whose table is empty and whose response depends on `req_valid` alone. -/
theorem resetCycleClearsTable : Obligations.ResetCycleClearsTable :=
  fun _ _ _ hin hrst => ⟨_, step_reset hin hrst, fun _ => rfl, rfl, rfl,
    fun hvalid => if_pos hvalid, fun hvalid => if_neg (Bool.eq_false_iff.mp hvalid)⟩

/-! ### Repeats -/

/-- R222: a cycle that presents CLASSIFY of the station's `last` answers `RejectDuplicate` and leaves the table. -/
theorem step_classify_last {s : State} {x d : StationId} {n : Seq} {rest : List Cycle} (hentry : s.entry x = some n)
    (hin : s.inputs = Cycle.ofInstr (.classify x n) d :: rest) :
    ∃ t, step s = .next t ∧ t.rsp = .response (.decision .rejectDuplicate) ∧ t.sst = s.sst ∧ t.inputs = rest :=
  ⟨_, (step_exec hin rfl (decodeOfEncodeIsIdentity (.classify x n))).trans
    (exec_classify_duplicate hentry (forwardDistance_self n)), rfl, rfl, rfl⟩

/-- Settles O44, by induction on the number of repeats: a duplicate leaves the table, so the next repeat meets the same
entry. -/
theorem repeatsNeverBecomeAcceptable : Obligations.RepeatsNeverBecomeAcceptable := by
  intro k
  induction k with
  | zero => exact fun s _ _ _ _ _ => ⟨rfl, s, rfl, rfl⟩
  | succ k ih =>
    intro s st d n hentry hin
    obtain ⟨t, hstep, hrsp, hsst, hinputs⟩ := step_classify_last hentry hin
    have hentry' : t.entry st = some n := (congrArg (sstRead · st) hsst).trans hentry
    obtain ⟨hobserve, u, hrun, hu⟩ := ih t st d n hentry' hinputs
    rw [observe_succ hstep, run_succ hstep, hrsp, hobserve]
    exact ⟨rfl, u, hrun, hu.trans hsst⟩

/-! ### A forged number -/

theorem ringAhead_toNat (n : Seq) (k : Nat) : (ringAhead n k).toNat = (n.toNat + k) % 255 := by
  rw [ringAhead, BitVec.toNat_ofNat, Config.ring]
  omega

/-- R122: a number `k` steps ahead on the ring is at distance `k`. -/
theorem forwardDistance_ringAhead (n : Seq) {k : Nat} (hk : k ≤ 254) : forwardDistance (ringAhead n k) n = k :=
  (eq_ringAhead_iff (by rw [ringAhead_toNat]; omega) hk).mp rfl

/-- R122: of two numbers ahead of the same one, the distance is the difference of their steps on the ring. -/
theorem forwardDistance_ringAhead_ringAhead (n : Seq) (k : Nat) {j : Nat} (hj : j ≤ 255) :
    forwardDistance (ringAhead n k) (ringAhead n j) = (k + 255 - j) % 255 := by
  rw [forwardDistance_eq, ringAhead_toNat, ringAhead_toNat]
  omega

/-- Settles O48: seen from the forged number, the genuine `k`th is `k + 128` steps ahead for `k` up to 126, the 127th is at
distance 0 and the 128th one step ahead. -/
theorem forgedNumberLocksOutStation : Obligations.ForgedNumberLocksOutStation := by
  intro s st last hentry _
  have hforged := forwardDistance_ringAhead last (k := 127) (by omega)
  have hstored := s.acceptNumber_entry st (ringAhead last 127)
  have hgenuine := fun k => forwardDistance_ringAhead_ringAhead last k (j := 127) (by omega)
  have hstale : ∀ k, 1 ≤ k → k ≤ 126 → 128 ≤ forwardDistance (ringAhead last k) (ringAhead last 127) := by
    intro k h1 h2
    rw [hgenuine]
    omega
  have hnext : forwardDistance (ringAhead last 128) (ringAhead last 127) = 1 := hgenuine 128
  exact ⟨s.acceptNumber st (ringAhead last 127),
    (s.acceptNumber st (ringAhead last 127)).acceptNumber st (ringAhead last 128),
    exec_classify_ahead hentry (by omega) (by omega), rfl, fun k h1 h2 => exec_classify_stale hstored (hstale k h1 h2),
    exec_classify_duplicate hstored (hgenuine 127), exec_classify_ahead hstored (by omega) (by omega), rfl⟩

end Sys2Proof.Machine
end

section
/-! PROOFS of the statements of spec/93_implementation_defined.md: the choice of SEQ255 (U2, spec/92_eei_decisions.md D12). -/

namespace Sys2Proof.Machine

/-- R18: no number that keeps the duty is the raw byte 255. -/
theorem ne_255_of_le_seqMax {n : Seq} (hn : n.toNat ≤ Config.seqMax) : n ≠ 255#8 := by
  rintro rfl
  exact absurd hn (by decide)

/-- U2: the treatments differ on the byte 255 alone, and on any other each is the literal algorithm. -/
theorem classifyAs_eq_ringClassify (t : Config.Seq255) (m : Memory) (x : StationId) {n : Seq} (h : n ≠ 255#8) :
    classifyAs t m x n = ringClassify m x n := by
  cases t with
  | literal => rfl
  | reduceToZero => exact congrArg (ringClassify m x) (if_neg h)
  | rejectAsStale => exact if_neg h

/-- Settles O42: both treatments are the literal algorithm on a number that is not 255. -/
theorem seq255TreatmentIsIrrelevantInRing : Obligations.Seq255TreatmentIsIrrelevantInRing := by
  intro p q m st n hn
  have h := ne_255_of_le_seqMax hn
  exact (classifyAs_eq_ringClassify p m st h).trans (classifyAs_eq_ringClassify q m st h).symm

end Sys2Proof.Machine
end
